-- ==== Sys2Proof/Word.lean ====
section
/-! DEFINITION. The machine's plain words: bytes, 32-bit and 64-bit words (R11, R12), and the two halves of a
floating register (R34, R344). -/

namespace Sys2Proof

/-- A byte of scratchpad, dataset or entropy buffer (R81). -/
abbrev Byte := BitVec 8

/-- A compiled word, an immediate entry or a scalar address (R39, R46, R47, R51). -/
abbrev Word32 := BitVec 32

/-- An integer register or one floating half (R32, R34). -/
abbrev Word64 := BitVec 64

/-- The two halves of a floating register (R12, R34). -/
inductive Half where
  | lo
  | hi
  deriving DecidableEq, Repr

/-- The other half, for FSWAP_R (R346). -/
def Half.other : Half → Half
  | .lo => .hi
  | .hi => .lo

end Sys2Proof
end

