-- ==== Sys2Proof/Config.lean ====
section
/-! DEFINITION. The parameters of R8: the sizes the spec fixes, the parameters that are arguments of the model
(`Params`, held in State and never changed by a step; log 1), and `NAN_RESULT` as a free value (log 2). -/

namespace Sys2Proof.Config

/-- `PROGRAM_SIZE` (R8). -/
def programSize : Nat := 256

/-- `ENTROPY_SEED_BYTES` (R8). -/
def entropySeedBytes : Nat := 128

/-- The entropy buffer's size (R83, R170). -/
def entropySize : Nat := 2176

/-- `IMM_CAP` (R8). -/
def immCap : Nat := 192

/-- `PROG_CAP` (R8). -/
def progCap : Nat := 256

/-- `L1_SIZE` (R8). -/
def l1Size : Nat := 16384

/-- `L2_SIZE` (R8). -/
def l2Size : Nat := 262144

/-- `L3_SIZE`, the whole scratchpad (R8, R81). -/
def l3Size : Nat := 2097152

/-- `DATASET_BASE_SIZE` (R8). -/
def datasetBaseSize : Nat := 2147483648

/-- `JUMP_BITS` (R8). -/
def jumpBits : Nat := 8

/-- `JUMP_OFFSET` (R8). -/
def jumpOffset : Nat := 8

/-- `STORE_L3_CONDITION` (R8). -/
def storeL3Condition : Nat := 14

/-- `FP_SEARCH_CAP` = `PROGRAM_SIZE` cycles (R8, D27). -/
def fpSearchCap : Nat := 256

/-- `CREG_RULE` (R8, R203, R204). -/
inductive CregRule where
  | select
  | dstField
  deriving DecidableEq, Repr

/-- The parameters of R8 that the spec leaves open as arguments of the model. -/
structure Params where
  /-- `W`, lanes per instance (D31). -/
  w : Nat
  /-- `FREQ[0..28]` (D11). -/
  freq : List Nat
  latInt : Nat
  latFp : Nat
  latMem : Nat
  latMemHigh : Nat
  cregRule : CregRule
  /-- `DATASET_EXTRA_ITEMS` (D19). -/
  datasetExtraItems : Nat
  /-- `PROGRAM_ITERATIONS` (D23): only the host's duty of R426 mentions it. -/
  programIterations : Nat
  /-- `WARP_SIZE` (D30): not observable (R427). -/
  warpSize : Nat
  deriving DecidableEq, Repr

/-- The default `FREQ` column of R122. -/
def defaultFreq : List Nat :=
  [16, 7, 16, 7, 16, 4, 4, 1, 4, 1, 8, 2, 15, 5, 8, 2, 4, 4, 16, 5, 16, 5, 6, 32, 4, 6, 25, 1, 16]

/-- The parameters State.reset carries: R8's defaults, and `W` = 4 with latencies of 1 as 95_test_vectors uses
them. DESIGN CHOICE, unsafe (log 1). -/
def defaultParams : Params where
  w := 4
  freq := defaultFreq
  latInt := 1
  latFp := 1
  latMem := 1
  latMemHigh := 1
  cregRule := .select
  datasetExtraItems := 524287
  programIterations := 2048
  warpSize := 32

/-- A parameter outside its stated range is a configuration the model refuses before any step (R9; the ranges of
the last table of 92_eei_decisions, log 21). -/
def Params.ok (p : Params) : Bool :=
  decide ((p.w = 1 ∨ p.w = 2 ∨ p.w = 4 ∨ p.w = 8) ∧ p.freq.length = 29 ∧ p.freq.sum = 256
    ∧ 1 ≤ p.latInt ∧ 1 ≤ p.latFp ∧ 1 ≤ p.latMem ∧ 1 ≤ p.latMemHigh
    ∧ 1 ≤ p.programIterations ∧ 0 < p.warpSize ∧ p.warpSize % p.w = 0)

/-- `DATASET_SIZE` (R82). -/
def Params.datasetSize (p : Params) : Nat := datasetBaseSize + 64 * p.datasetExtraItems

/-- The four rounding directions (R44). -/
inductive RoundMode where
  | nearestEven
  | down
  | up
  | zero
  deriving DecidableEq, Repr

/-- The floating operations that can give a NaN (R15, R340). -/
inductive FpOp where
  | add
  | sub
  | mul
  | div
  | sqrt
  deriving DecidableEq, Repr

/-- FREE VALUE (R8 `NAN_RESULT`, D24, U14; log 2): 64 bits that choose which NaN pattern an operation gives. No
body, so no proof can use a value of it. A square root passes its operand twice. -/
opaque nanPayload : FpOp → RoundMode → Word64 → Word64 → Word64

end Sys2Proof.Config
end

