-- ==== Sys2Proof/Machine/Binary64.lean ====
section
/-! DEFINITION. IEEE 754-2008 binary64 arithmetic on 64-bit patterns, correctly rounded in the four directions
(R15, R340). An operation takes its operands apart into a sign, an integer significand and a power of two, computes
exactly (with a sticky bit where the exact result has no finite binary expansion), and rounds once in `roundPack`.
No flush to zero, no exception flags (R340). -/

namespace Sys2Proof.Machine

open Sys2Proof.Config (RoundMode FpOp)

/-- The direction a 2-bit `fprc` stands for (R44). -/
def roundModeOf (m : BitVec 2) : RoundMode :=
  match m.toNat with
  | 0 => .nearestEven
  | 1 => .down
  | 2 => .up
  | _ => .zero

/-- A binary64 taken apart: a finite one has the value `±mant × 2^exp`. -/
inductive FpVal where
  | nan
  | inf (neg : Bool)
  | fin (neg : Bool) (mant : Nat) (exp : Int)
  deriving DecidableEq, Repr

/-- The magnitude bits of infinity. -/
def fpInfBits : Nat := 0x7FF0000000000000

/-- The magnitude bits of the largest finite number. -/
def fpMaxBits : Nat := 0x7FEFFFFFFFFFFFFF

/-- Take a pattern apart (R12). -/
def fpDecode (x : Word64) : FpVal :=
  let neg := decide (x.toNat / 2 ^ 63 % 2 = 1)
  let ex : Nat := x.toNat / 2 ^ 52 % 2 ^ 11
  let frac : Nat := x.toNat % 2 ^ 52
  if ex = 2047 then (if frac = 0 then .inf neg else .nan)
  else if ex = 0 then .fin neg frac (-1074)
  else .fin neg (2 ^ 52 + frac) ((ex : Int) - 1075)

/-- The pattern of a sign and magnitude bits. -/
def fpPattern (neg : Bool) (magn : Nat) : Word64 := BitVec.ofNat 64 ((if neg then 2 ^ 63 else 0) + magn)

/-- The number of bits of a natural number. -/
def bitLen (m : Nat) : Nat := if m = 0 then 0 else Nat.log2 m + 1

/-- Whether the magnitude `quo + (rem + sticky) / unit`, `rem < unit`, rounds away from zero (R44, R340). -/
def roundsAway (mode : RoundMode) (neg : Bool) (quo rem unit : Nat) (sticky : Bool) : Bool :=
  match mode with
  | .nearestEven => decide (unit < 2 * rem) || (decide (unit = 2 * rem) && (sticky || decide (quo % 2 = 1)))
  | .down => neg && (decide (rem ≠ 0) || sticky)
  | .up => !neg && (decide (rem ≠ 0) || sticky)
  | .zero => false

/-- The magnitude bits of a result past the largest finite number (R340). -/
def overflowBits (mode : RoundMode) (neg : Bool) : Nat :=
  match mode with
  | .nearestEven => fpInfBits
  | .down => if neg then fpInfBits else fpMaxBits
  | .up => if neg then fpMaxBits else fpInfBits
  | .zero => fpMaxBits

/-- Round `±(mant + sticky) × 2^exp` to binary64, where `sticky` stands for a part strictly between 0 and 1 and is
set only when `mant` has at least 55 bits. `q` is the exponent of the result's last place: 52 below the leading
bit's, and never below −1074 (subnormals). The exponent field and a carry out of the significand come out of one
addition. -/
def roundPack (mode : RoundMode) (neg : Bool) (mant : Nat) (exp : Int) (sticky : Bool) : Word64 :=
  if mant = 0 then fpPattern neg 0
  else
    let q : Int := max (exp + (bitLen mant : Int) - 53) (-1074)
    let scaled := mant * 2 ^ (exp - q).toNat
    let unit := 2 ^ (q - exp).toNat
    let quo := scaled / unit
    let up := if roundsAway mode neg quo (scaled % unit) unit sticky then 1 else 0
    let magn := (q + 1074).toNat * 2 ^ 52 + quo + up
    fpPattern neg (if magn < fpInfBits then magn else overflowBits mode neg)

/-- `NAN_RESULT` (R8, R340; log 2): some NaN pattern, which one is free. The payload's bits are taken as they are,
but for the exponent, which is all ones, and a zero fraction, which no NaN has. -/
def nanResult (op : FpOp) (mode : RoundMode) (x y : Word64) : Word64 :=
  let p := Config.nanPayload op mode x y ||| 0x7FF0000000000000
  if p.toNat % 2 ^ 52 = 0 then p ||| 0x0008000000000000 else p

/-- `±mant × 2^exp` as a multiple of `2^base`, `base ≤ exp`. -/
def signedMant (neg : Bool) (mant : Nat) (exp base : Int) : Int :=
  let m : Int := ((mant * 2 ^ (exp - base).toNat : Nat) : Int)
  if neg then -m else m

/-- The sum of two taken-apart numbers; `nan` is the answer where IEEE 754 gives a NaN. An exact zero sum of unlike
signs is −0 toward −∞ and +0 otherwise (R349). -/
def fpSum (mode : RoundMode) (nan : Word64) (x y : FpVal) : Word64 :=
  match x, y with
  | .nan, _ => nan
  | _, .nan => nan
  | .inf s, .inf t => if s = t then fpPattern s fpInfBits else nan
  | .inf s, .fin _ _ _ => fpPattern s fpInfBits
  | .fin _ _ _, .inf t => fpPattern t fpInfBits
  | .fin s m g, .fin t n h =>
    let base := min g h
    let total := signedMant s m g base + signedMant t n h base
    if total = 0 then fpPattern (if s = t then s else decide (mode = .down)) 0
    else roundPack mode (decide (total < 0)) total.natAbs base false

/-- The number with its sign changed. -/
def FpVal.negate : FpVal → FpVal
  | .nan => .nan
  | .inf s => .inf (!s)
  | .fin s m g => .fin (!s) m g

/-- `fadd` (R15, R340). -/
def fadd (mode : RoundMode) (x y : Word64) : Word64 :=
  fpSum mode (nanResult .add mode x y) (fpDecode x) (fpDecode y)

/-- `fsub` (R15, R340): the sum with the second operand's sign changed. -/
def fsub (mode : RoundMode) (x y : Word64) : Word64 :=
  fpSum mode (nanResult .sub mode x y) (fpDecode x) (fpDecode y).negate

/-- `fmul` (R15, R340). -/
def fmul (mode : RoundMode) (x y : Word64) : Word64 :=
  match fpDecode x, fpDecode y with
  | .nan, _ => nanResult .mul mode x y
  | _, .nan => nanResult .mul mode x y
  | .inf s, .inf t => fpPattern (s != t) fpInfBits
  | .inf s, .fin t n _ => if n = 0 then nanResult .mul mode x y else fpPattern (s != t) fpInfBits
  | .fin s m _, .inf t => if m = 0 then nanResult .mul mode x y else fpPattern (s != t) fpInfBits
  | .fin s m g, .fin t n h => roundPack mode (s != t) (m * n) (g + h) false

/-- Extra bits a quotient is computed with. -/
def divBits : Nat := 120

/-- `fdiv` (R15, R340). -/
def fdiv (mode : RoundMode) (x y : Word64) : Word64 :=
  match fpDecode x, fpDecode y with
  | .nan, _ => nanResult .div mode x y
  | _, .nan => nanResult .div mode x y
  | .inf _, .inf _ => nanResult .div mode x y
  | .inf s, .fin t _ _ => fpPattern (s != t) fpInfBits
  | .fin s _ _, .inf t => fpPattern (s != t) 0
  | .fin s m g, .fin t n h =>
    if n = 0 then (if m = 0 then nanResult .div mode x y else fpPattern (s != t) fpInfBits)
    else
      roundPack mode (s != t) (m * 2 ^ divBits / n) (g - h - divBits) (decide (m * 2 ^ divBits % n ≠ 0))

/-- Integer square root, from bit `b` − 1 down: the largest number below `root + 2^b` whose square is at most
`n`, given that `root` is such. -/
def isqrtFrom (n : Nat) : Nat → Nat → Nat
  | 0, root => root
  | b + 1, root =>
    let t := root + 2 ^ b
    isqrtFrom n b (if t * t ≤ n then t else root)

/-- The integer square root. -/
def isqrt (n : Nat) : Nat := isqrtFrom n (bitLen n / 2 + 1) 0

/-- Extra bits a square root's operand is scaled by, made even with its exponent. -/
def sqrtBits (exp : Int) : Nat := 108 + (exp % 2).toNat

/-- `fsqrt` (R15, R340, R354): the root of −0 is −0, of any other negative number a NaN. -/
def fsqrt (mode : RoundMode) (x : Word64) : Word64 :=
  match fpDecode x with
  | .nan => nanResult .sqrt mode x x
  | .inf s => if s then nanResult .sqrt mode x x else fpPattern false fpInfBits
  | .fin s m g =>
    if m = 0 then fpPattern s 0
    else if s then nanResult .sqrt mode x x
    else
      let scaled := m * 2 ^ sqrtBits g
      let root := isqrt scaled
      roundPack mode false root ((g - sqrtBits g) / 2) (decide (root * root ≠ scaled))

/-- `bits(cvt_i32_f64(v))`: exact, whatever the rounding mode (R15, R341). -/
def cvtI32 (v : Word32) : Word64 := roundPack .nearestEven (decide (v.toInt < 0)) v.toInt.natAbs 0 false

/-- E masking (R342). -/
def maskE (x m : Word64) : Word64 := (x &&& 0x00FFFFFFFFFFFFFF) ||| m

end Sys2Proof.Machine
end

