-- ==== Sys2Proof/Syntax.lean ====
section
/-! DEFINITION. The two instruction sets as data. `Instr` is the compiled instruction set of R125–R134, one
constructor per row of the opcode table; `RawInstr` is one raw RandomX instruction (R120–R122), the compile
engine's input. -/

namespace Sys2Proof

/-- The `loc` field of a compiled word (R125, R128). -/
inductive Loc where
  | file
  | l1
  | l2
  | l3
  deriving DecidableEq, Repr

/-- The fields of a compiled word but its opcode and its two reserved bits (R125). Every opcode carries all of
them: an ignored field does not make a word illegal (R127, R132). -/
structure Fields where
  dst : Fin 8
  src : Fin 8
  loc : Loc
  immIdx : Fin 256
  shift : Fin 4
  /-- Instructions in the dispatch group; read only from the group's first word (R131). -/
  n : Fin 16
  /-- Floating instructions in the group (R131). -/
  nf : Fin 8
  deriving DecidableEq, Repr

/-- A compiled instruction (R126). -/
inductive Instr where
  | iaddRs (w : Fields)
  | iaddM (w : Fields)
  | isubR (w : Fields)
  | isubM (w : Fields)
  | imulR (w : Fields)
  | imulM (w : Fields)
  | imulhR (w : Fields)
  | imulhM (w : Fields)
  | ismulhR (w : Fields)
  | ismulhM (w : Fields)
  | imulRcp (w : Fields)
  | inegR (w : Fields)
  | ixorR (w : Fields)
  | ixorM (w : Fields)
  | irorR (w : Fields)
  | irolR (w : Fields)
  | iswapR (w : Fields)
  | fswapR (w : Fields)
  | faddR (w : Fields)
  | faddM (w : Fields)
  | fsubR (w : Fields)
  | fsubM (w : Fields)
  | fscalR (w : Fields)
  | fmulR (w : Fields)
  | fdivM (w : Fields)
  | fsqrtR (w : Fields)
  | cbranch (w : Fields)
  | cfround (w : Fields)
  | istore (w : Fields)
  | nop (w : Fields)
  deriving DecidableEq, Repr

/-- The raw opcode classes in the fixed declaration order (R122). -/
inductive RawClass where
  | iaddRs | iaddM | isubR | isubM | imulR | imulM | imulhR | imulhM | ismulhR | ismulhM
  | imulRcp | inegR | ixorR | ixorM | irorR | irolR | iswapR
  | fswapR | faddR | faddM | fsubR | fsubM | fscalR | fmulR | fdivM | fsqrtR
  | cbranch | cfround | istore
  deriving DecidableEq, Repr

/-- One raw instruction after field decoding (R120, R121). -/
structure RawInstr where
  cls : RawClass
  dst : Fin 8
  src : Fin 8
  /-- `mod.mem` (R121). -/
  modMem : Fin 4
  /-- `mod.shift` (R121). -/
  modShift : Fin 4
  /-- `mod.cond` (R121). -/
  modCond : Fin 16
  imm32 : Word32
  deriving DecidableEq, Repr

end Sys2Proof
end

