-- ==== Sys2Proof/Decode.lean ====
section
/-! DEFINITION. Decoding and encoding. First the views of an instruction its encoding gives (opcode number,
fields, legality of R132), then the decoder of compiled words (R125, R126), the decoder of raw instructions
(R120–R123), and last the encoder. Field extraction is arithmetic on the word's number: bits `hi:lo` are
`w / 2^lo mod 2^(hi-lo+1)` (R10). -/

namespace Sys2Proof

/-! ### Bit fields and byte order -/

/-- The field of width `width` whose lowest bit is `lo`, of a number (R10). -/
def bitField (w lo width : Nat) : Nat := w / 2 ^ lo % 2 ^ width

/-- The bytes of a 32-bit word, lowest address first (R84). -/
def word32Bytes (w : Word32) : List Byte :=
  [BitVec.ofNat 8 w.toNat, BitVec.ofNat 8 (w.toNat / 2 ^ 8), BitVec.ofNat 8 (w.toNat / 2 ^ 16),
    BitVec.ofNat 8 (w.toNat / 2 ^ 24)]

/-- The 32-bit word of four bytes, lowest address first (R84). -/
def word32OfBytes (b0 b1 b2 b3 : Byte) : Word32 :=
  BitVec.ofNat 32 (b0.toNat + b1.toNat * 2 ^ 8 + b2.toNat * 2 ^ 16 + b3.toNat * 2 ^ 24)

/-- The `loc` code of R125. -/
def Loc.code : Loc → Nat
  | .file => 0
  | .l1 => 1
  | .l2 => 2
  | .l3 => 3

/-- The location of a `loc` code (R125). -/
def Loc.ofCode (k : Nat) : Loc :=
  match k with
  | 0 => .file
  | 1 => .l1
  | 2 => .l2
  | _ => .l3

/-! ### Views of a compiled instruction -/

/-- The fields of a compiled instruction (R125). -/
def Instr.fields : Instr → Fields
  | .iaddRs w => w
  | .iaddM w => w
  | .isubR w => w
  | .isubM w => w
  | .imulR w => w
  | .imulM w => w
  | .imulhR w => w
  | .imulhM w => w
  | .ismulhR w => w
  | .ismulhM w => w
  | .imulRcp w => w
  | .inegR w => w
  | .ixorR w => w
  | .ixorM w => w
  | .irorR w => w
  | .irolR w => w
  | .iswapR w => w
  | .fswapR w => w
  | .faddR w => w
  | .faddM w => w
  | .fsubR w => w
  | .fsubM w => w
  | .fscalR w => w
  | .fmulR w => w
  | .fdivM w => w
  | .fsqrtR w => w
  | .cbranch w => w
  | .cfround w => w
  | .istore w => w
  | .nop w => w

/-- The compiled opcode (R126). -/
def Instr.opcode : Instr → Nat
  | .iaddRs _ => 0
  | .iaddM _ => 1
  | .isubR _ => 2
  | .isubM _ => 3
  | .imulR _ => 4
  | .imulM _ => 5
  | .imulhR _ => 6
  | .imulhM _ => 7
  | .ismulhR _ => 8
  | .ismulhM _ => 9
  | .imulRcp _ => 10
  | .inegR _ => 11
  | .ixorR _ => 12
  | .ixorM _ => 13
  | .irorR _ => 14
  | .irolR _ => 15
  | .iswapR _ => 16
  | .fswapR _ => 17
  | .faddR _ => 18
  | .faddM _ => 19
  | .fsubR _ => 20
  | .fsubM _ => 21
  | .fscalR _ => 22
  | .fmulR _ => 23
  | .fdivM _ => 24
  | .fsqrtR _ => 25
  | .cbranch _ => 26
  | .cfround _ => 27
  | .istore _ => 28
  | .nop _ => 29

/-- The instruction of a compiled opcode and its fields; 30 and 31 are reserved (R126). -/
def Instr.ofOpcode (op : Nat) (w : Fields) : Option Instr :=
  match op with
  | 0 => some (.iaddRs w)
  | 1 => some (.iaddM w)
  | 2 => some (.isubR w)
  | 3 => some (.isubM w)
  | 4 => some (.imulR w)
  | 5 => some (.imulM w)
  | 6 => some (.imulhR w)
  | 7 => some (.imulhM w)
  | 8 => some (.ismulhR w)
  | 9 => some (.ismulhM w)
  | 10 => some (.imulRcp w)
  | 11 => some (.inegR w)
  | 12 => some (.ixorR w)
  | 13 => some (.ixorM w)
  | 14 => some (.irorR w)
  | 15 => some (.irolR w)
  | 16 => some (.iswapR w)
  | 17 => some (.fswapR w)
  | 18 => some (.faddR w)
  | 19 => some (.faddM w)
  | 20 => some (.fsubR w)
  | 21 => some (.fsubM w)
  | 22 => some (.fscalR w)
  | 23 => some (.fmulR w)
  | 24 => some (.fdivM w)
  | 25 => some (.fsqrtR w)
  | 26 => some (.cbranch w)
  | 27 => some (.cfround w)
  | 28 => some (.istore w)
  | 29 => some (.nop w)
  | _ => none

/-- The floating opcodes are 17 to 25 (R126). -/
def Instr.isFloat (i : Instr) : Bool := decide (17 ≤ i.opcode) && decide (i.opcode ≤ 25)

/-- The same instruction with other fields. -/
def Instr.withFields (i : Instr) (w : Fields) : Instr := (Instr.ofOpcode i.opcode w).getD i

/-- What R128 lets the `loc` field of an opcode be. -/
inductive LocKind where
  /-- no memory operand: `loc` is 0 -/
  | none
  /-- an integer load: `loc` is 1, 2 or 3, and 3 exactly when `src = dst` (R302) -/
  | intLoad
  /-- a floating load: `loc` is 1 or 2 -/
  | floatLoad
  /-- ISTORE: `loc` is 1, 2 or 3 -/
  | store
  deriving DecidableEq, Repr

/-- The memory form of an opcode (R128). -/
def Instr.locKind : Instr → LocKind
  | .iaddM _ | .isubM _ | .imulM _ | .imulhM _ | .ismulhM _ | .ixorM _ => .intLoad
  | .faddM _ | .fsubM _ | .fdivM _ => .floatLoad
  | .istore _ => .store
  | .iaddRs _ | .isubR _ | .imulR _ | .imulhR _ | .ismulhR _ | .imulRcp _ | .inegR _ | .ixorR _ | .irorR _
  | .irolR _ | .iswapR _ | .fswapR _ | .faddR _ | .fsubR _ | .fscalR _ | .fmulR _ | .fsqrtR _ | .cbranch _
  | .cfround _ | .nop _ => .none

/-- `loc` agrees with R128 for its opcode (R132, R302). -/
def Instr.locLegal (i : Instr) : Bool :=
  match i.locKind with
  | .none => i.fields.loc == .file
  | .intLoad => i.fields.loc != .file && ((i.fields.loc == .l3) == (i.fields.src == i.fields.dst))
  | .floatLoad => i.fields.loc == .l1 || i.fields.loc == .l2
  | .store => i.fields.loc != .file

/-- `dst` names one of four floating registers, so its bit 2 must be clear (R127). FSWAP_R's does not. -/
def Instr.dstIsQuad : Instr → Bool
  | .faddR _ | .faddM _ | .fsubR _ | .fsubM _ | .fscalR _ | .fmulR _ | .fdivM _ | .fsqrtR _ => true
  | .iaddRs _ | .iaddM _ | .isubR _ | .isubM _ | .imulR _ | .imulM _ | .imulhR _ | .imulhM _ | .ismulhR _
  | .ismulhM _ | .imulRcp _ | .inegR _ | .ixorR _ | .ixorM _ | .irorR _ | .irolR _ | .iswapR _ | .fswapR _
  | .cbranch _ | .cfround _ | .istore _ | .nop _ => false

/-- `src` names a register of group A, so its bit 2 must be clear (R127). -/
def Instr.srcIsQuad : Instr → Bool
  | .faddR _ | .fsubR _ | .fmulR _ => true
  | .iaddRs _ | .iaddM _ | .isubR _ | .isubM _ | .imulR _ | .imulM _ | .imulhR _ | .imulhM _ | .ismulhR _
  | .ismulhM _ | .imulRcp _ | .inegR _ | .ixorR _ | .ixorM _ | .irorR _ | .irolR _ | .iswapR _ | .fswapR _
  | .faddM _ | .fsubM _ | .fscalR _ | .fdivM _ | .fsqrtR _
  | .cbranch _ | .cfround _ | .istore _ | .nop _ => false

/-- Bit 2 of `dst` and `src` is clear where R127 allows only 0–3 (R132). -/
def Instr.regsLegal (i : Instr) : Bool :=
  (!i.dstIsQuad || decide (i.fields.dst.val < 4)) && (!i.srcIsQuad || decide (i.fields.src.val < 4))

/-- The checks of R132 on every word, the group-count checks of a first word excepted. -/
def Instr.legal (i : Instr) : Bool := i.locLegal && i.regsLegal

/-- Lanes a group needs (R134). -/
def lanesNeeded (w n nf : Nat) : Nat := if w = 1 then 1 else 2 * nf + (n - nf)

/-- The group-count checks of R132 on a group's first word. -/
def groupCountsLegal (w n nf : Nat) : Bool :=
  n != 0 && decide (n ≤ w) && decide (nf ≤ n) && decide (lanesNeeded w n nf ≤ w)

/-! ### Decoding compiled words -/

/-- Why a compiled word, or a byte list, decodes to no instruction. -/
inductive DecodeReject where
  /-- bits [31:30] are not 0 (R132) -/
  | reservedBits
  /-- `op` is 30 or 31 (R126, R132) -/
  | reservedOpcode
  /-- fewer than four bytes -/
  | truncated
  deriving DecidableEq, Repr

/-- The fields of a compiled word (R125). -/
def decodeFields (w : Word32) : Fields where
  dst := Fin.ofNat 8 (bitField w.toNat 0 3)
  src := Fin.ofNat 8 (bitField w.toNat 3 3)
  loc := Loc.ofCode (bitField w.toNat 6 2)
  immIdx := Fin.ofNat 256 (bitField w.toNat 8 8)
  shift := Fin.ofNat 4 (bitField w.toNat 16 2)
  n := Fin.ofNat 16 (bitField w.toNat 23 4)
  nf := Fin.ofNat 8 (bitField w.toNat 27 3)

/-- Decode one compiled word (R125, R126). The remaining checks of R132 are `Instr.legal` and
`groupCountsLegal` (log 24). -/
def decodeWord (w : Word32) : Except DecodeReject Instr :=
  if bitField w.toNat 30 2 ≠ 0 then .error .reservedBits
  else
    match Instr.ofOpcode (bitField w.toNat 18 5) (decodeFields w) with
    | some i => .ok i
    | none => .error .reservedOpcode

/-- Decode the instruction at the head of a byte list and give the bytes after it (R84, R133). -/
def decode (bytes : List Byte) : Except DecodeReject (Instr × List Byte) :=
  match bytes with
  | b0 :: b1 :: b2 :: b3 :: rest =>
    match decodeWord (word32OfBytes b0 b1 b2 b3) with
    | .ok i => .ok (i, rest)
    | .error r => .error r
  | _ => .error .truncated

/-! ### Decoding raw instructions -/

/-- The classes in their fixed declaration order (R122). -/
def RawClass.all : List RawClass :=
  [.iaddRs, .iaddM, .isubR, .isubM, .imulR, .imulM, .imulhR, .imulhM, .ismulhR, .ismulhM,
    .imulRcp, .inegR, .ixorR, .ixorM, .irorR, .irolR, .iswapR,
    .fswapR, .faddR, .faddM, .fsubR, .fsubM, .fscalR, .fmulR, .fdivM, .fsqrtR,
    .cbranch, .cfround, .istore]

/-- The class whose cumulative interval holds the opcode byte (R123); none only where the frequencies sum to
less than the byte, which `Params.ok` excludes. -/
def classLookup : List (RawClass × Nat) → Nat → Option RawClass
  | [], _ => none
  | (c, k) :: rest, b => if b < k then some c else classLookup rest (b - k)

/-- Class of an opcode byte under a frequency table (R123). -/
def rawClassOf (freq : List Nat) (b : Nat) : Option RawClass := classLookup (RawClass.all.zip freq) b

/-- Decode a raw instruction word (R120, R121, R123). -/
def decodeRaw (freq : List Nat) (w : Word64) : Option RawInstr :=
  match rawClassOf freq (bitField w.toNat 0 8) with
  | none => none
  | some c =>
    some
      { cls := c
        dst := Fin.ofNat 8 (bitField w.toNat 8 3)
        src := Fin.ofNat 8 (bitField w.toNat 16 3)
        modMem := Fin.ofNat 4 (bitField w.toNat 24 2)
        modShift := Fin.ofNat 4 (bitField w.toNat 26 2)
        modCond := Fin.ofNat 16 (bitField w.toNat 28 4)
        imm32 := BitVec.ofNat 32 (bitField w.toNat 32 32) }

/-! ### Encoding -/

/-- The compiled word of an instruction (R125, R126). -/
def encodeWord (i : Instr) : Word32 :=
  BitVec.ofNat 32
    (i.fields.dst.val + i.fields.src.val * 2 ^ 3 + i.fields.loc.code * 2 ^ 6 + i.fields.immIdx.val * 2 ^ 8
      + i.fields.shift.val * 2 ^ 16 + i.opcode * 2 ^ 18 + i.fields.n.val * 2 ^ 23 + i.fields.nf.val * 2 ^ 27)

/-- The bytes of an instruction, lowest address first (R84, R97). -/
def encode (i : Instr) : List Byte := word32Bytes (encodeWord i)

/-- The instruction the decoder reads from an opcode-table row's bits: `w` holds the row's `nbits` bits, every
bit above them is 0, and the word is laid out as the VM-state buffer stores it (R84, R97). -/
def decodeTableWord (nbits w : Nat) : Option Instr :=
  match decode (word32Bytes (BitVec.ofNat 32 (w % 2 ^ nbits))) with
  | .ok (i, _) => some i
  | .error _ => none

end Sys2Proof
end

