-- ==== Sys2Proof/WellFormed.lean ====
section
/-! DEFINITION. Well-formed instructions: the compiled words R132 does not call illegal, read anywhere in a group
(`Instr.wellFormed`) or as a group's first word under `W` lanes (`Instr.wellFormedHead`). The checks themselves
stand beside the decoder. -/

namespace Sys2Proof

/-- A word that may stand in a group (R132, R257). -/
def Instr.wellFormed (i : Instr) : Bool := i.legal

/-- A word that may head a group under `w` lanes (R132, R256). -/
def Instr.wellFormedHead (w : Nat) (i : Instr) : Bool :=
  i.legal && groupCountsLegal w i.fields.n.val i.fields.nf.val

end Sys2Proof
end

