-- ==== Sys2Proof/Machine/State.lean ====
section
/-! DEFINITION. The whole state of one instance (10_state, 20_memory, 42_interpreter), the fault record (R56,
R411), the reasons a step can stop, and the state after reset (R450, R451). INVENTORY.md lists every field with
the rule that names it. -/

namespace Sys2Proof.Machine

/-- Sparse memory: (address, byte) pairs, addresses rising, no entry equal to the byte an unlisted address
reads as (Ops.lean, `Memory.unlisted`; log 4). -/
abbrev Memory := List Host.Cell

/-- Eight registers of one kind (R32, R57). -/
structure Bank8 (α : Type) where
  x0 : α
  x1 : α
  x2 : α
  x3 : α
  x4 : α
  x5 : α
  x6 : α
  x7 : α
  deriving DecidableEq, Repr

/-- Four registers of one kind (R34–R36, R41). -/
structure Bank4 (α : Type) where
  x0 : α
  x1 : α
  x2 : α
  x3 : α
  deriving DecidableEq, Repr

/-- A floating register: two 64-bit words holding binary64 patterns (R12, R34). -/
structure FReg where
  lo : Word64
  hi : Word64
  deriving DecidableEq, Repr

/-- The interpreter's phase (R49). -/
inductive Phase where
  | seed
  | dispatch
  | writeback
  | done
  deriving DecidableEq, Repr

/-- How far the compile engine is (R200; log 8). -/
inductive CompileStage where
  /-- the seed words are decoded next -/
  | decode
  /-- raw instruction `i` is examined next in pass 1 -/
  | pass1 (i : Nat)
  /-- raw instruction `i` is placed next in pass 2 -/
  | pass2 (i : Nat)
  /-- the compiled words are emitted next -/
  | emit
  deriving DecidableEq, Repr

/-- Which agent moves next (R429). -/
inductive Agent where
  | host
  | compile (stage : CompileStage)
  | interpret
  deriving DecidableEq, Repr

/-- The interactions of R426 that change the instance's state. -/
inductive HostCmd where
  /-- start a hash: a new VM state and this scratchpad (R451, R453) -/
  | startHash (scratch : Memory)
  /-- give the scratchpad its contents before a program's first batch (R426, D37) -/
  | initScratchpad (scratch : Memory)
  /-- compile one program from this entropy buffer (R426) -/
  | compile (entropy : Memory)
  /-- interpret one batch (R268, R426) -/
  | interpret (numIter : Nat) (first last : Bool)
  deriving DecidableEq, Repr

/-- One lane's own state (R53). -/
structure Lane where
  pc : Nat
  fprc : BitVec 2
  jreq : Bool
  jtgt : BitVec 16
  rreq : Bool
  rval : BitVec 2
  deriving DecidableEq, Repr

/-- The model's own field: which word of a group is being executed, by its index in `prog`, and on which lane;
`paired` when the word runs on that lane and the next (R257; log 10). -/
structure Issue where
  word : Nat
  lane : Nat
  paired : Bool
  deriving DecidableEq, Repr

/-- A resource of the hazard rules (R208). -/
inductive Resource where
  | r (j : Fin 8)
  | f (j : Fin 4)
  | e (j : Fin 4)
  | fprc
  | mem
  deriving DecidableEq, Repr

/-- A place an UNWRITTEN_READ names (R413). -/
inductive Location where
  | imm (k : Nat)
  | prog (k : Nat)
  | r (j : Fin 8)
  | f (j : Fin 4) (h : Half)
  | e (j : Fin 4) (h : Half)
  | a (j : Fin 4) (h : Half)
  | eMask (h : Half)
  | readReg (j : Fin 4)
  | ma
  | mx
  | datasetOffset
  deriving DecidableEq, Repr

/-- The fault reasons of R411, each with the information that rule records. -/
inductive FaultRecord where
  /-- the immediate entries would pass 192, at raw index `i` (R220) -/
  | immOverflow (i : Nat)
  /-- the placement search passed its cap, at raw index `i` (R223) -/
  | schedExhausted (i : Nat)
  /-- the word count would pass 256, at raw index `i` (R229) -/
  | progOverflow (i : Nat)
  /-- an illegal compiled word, or a CBRANCH with an illegal second entry (R132, R381) -/
  | badWord (pc idx : Nat) (word : Word32)
  /-- a group, or the program counter, would pass `prog_len` (R256, R259) -/
  | pcRange (pc n : Nat)
  /-- a CBRANCH target is not below `prog_len` (R381) -/
  | badTarget (pc idx target : Nat)
  /-- a read of a value that was never written (R413) -/
  | unwrittenRead (pc idx : Nat) (loc : Location)
  /-- two words of a group conflict on a resource (R258) -/
  | groupConflict (pc idx1 idx2 : Nat) (res : Resource)
  /-- a dataset read at or past `DATASET_SIZE` (R96) -/
  | datasetRange (round addr : Nat)
  deriving DecidableEq, Repr

/-- Tracker state of one integer register (R57). -/
structure RegHist where
  lastWrite : Int
  written : Bool
  usage : Nat
  deriving DecidableEq, Repr

/-- One number per resource (R58, R208, R221). -/
structure ResTable where
  r : Bank8 Nat
  f : Bank4 Nat
  e : Bank4 Nat
  fprc : Nat
  mem : Nat
  deriving DecidableEq, Repr

/-- A resolved CBRANCH: its raw index, condition register and raw target (R203–R205). -/
structure Branch where
  idx : Nat
  creg : Fin 8
  target : Nat
  deriving DecidableEq, Repr

/-- A placed raw instruction: its cycle (R210) and its first immediate entry (R220). -/
structure Placed where
  cycle : Nat
  immIdx : Nat
  deriving DecidableEq, Repr

/-- The compile engine's hidden state (R57–R59, R221). -/
structure Compiler where
  /-- `lastWrite`, `written`, `usage` (R57) -/
  hist : Bank8 RegHist
  /-- the branches pass 1 has resolved, the latest first (R205) -/
  branches : List Branch
  /-- `avail[x]` of R58 = `wAvail[x]` of R221; its `mem` entry is `memAvail` -/
  wAvail : ResTable
  /-- `memAvailHigh` (R58): the chain of L3-window stores (R221) -/
  memAvailHigh : Nat
  /-- `lastAccess[x]` of R58, held as `rFree[x]` of R221 -/
  rFree : ResTable
  /-- `cutFloor` (R221) = `fill` (R59) -/
  cutFloor : Nat
  /-- −1 if no cycle is used (R59) -/
  lastUsedCycle : Int
  /-- `used[c]`: lanes used per cycle, a cycle not listed has 0 (R59) -/
  used : List (Nat × Nat)
  /-- the placed instructions in raw order: `slot` of R59 in the form of R210 -/
  placed : List Placed
  /-- the count of occupied slots (R59, R231) -/
  occupied : Nat
  deriving DecidableEq, Repr

/-- The state of one instance: 10_state's registers, the memories of 20_memory, the compile engine, the host's
pending interactions, and the model's own fields. -/
structure State where
  /-- integer registers (R32) -/
  r : Bank8 Word64
  /-- group F (R34) -/
  f : Bank4 FReg
  /-- group E (R35) -/
  e : Bank4 FReg
  /-- group A, read-only during execution (R36) -/
  a : Bank4 FReg
  /-- dataset read offset (R39) -/
  ma : Word32
  /-- the other address scalar (R40) -/
  mx : Word32
  /-- read-address selectors, as register indices (R41) -/
  readReg : Bank4 (Fin 8)
  /-- `eMask[0]`, for the `lo` halves (R42) -/
  eMask0 : Word64
  /-- `eMask[1]`, for the `hi` halves (R42) -/
  eMask1 : Word64
  /-- (R43) -/
  datasetOffset : Word64
  /-- rounding mode (R44) -/
  fprc : BitVec 2
  /-- the immediate entries written (R46); its length is `immCount` (R59) -/
  imm : List Word32
  /-- the compiled words written (R47); its length is `prog_len` (R45), which is 0 while there is no program: before
  the first compile (log 3) and from a program's decoding to its emission (log 30) -/
  prog : List Word32
  /-- compiled-program counter (R48) -/
  pc : Nat
  /-- (R49) -/
  phase : Phase
  /-- rounds finished in the batch (R50) -/
  round : Nat
  /-- (R51) -/
  spAddr0 : Word32
  /-- (R51) -/
  spAddr1 : Word32
  /-- (R52) -/
  first : Bool
  /-- (R52) -/
  last : Bool
  /-- the batch's `NUM_ITER` (R268) -/
  numIter : Nat
  /-- lanes 0 to `W` − 1 (R53) -/
  lanes : List Lane
  /-- the sticky fault record (R56) -/
  fault : Option FaultRecord
  /-- scratchpad (R81) -/
  scratch : Memory
  /-- dataset, never written (R82, R102) -/
  dataset : Memory
  /-- entropy buffer, never written by the core (R83) -/
  entropy : Memory
  /-- compile-engine state (R57–R59) -/
  compiler : Compiler
  /-- the parameters of R8, never changed by a step (log 1) -/
  params : Config.Params
  /-- which agent moves next (log 7) -/
  agent : Agent
  /-- interactions the host has sent and the instance has not taken, in order (R426; log 7) -/
  hostQueue : List HostCmd
  /-- the decoder has written its fields for this program (R413, R451; log 6) -/
  decoded : Bool
  /-- the current batch's first seeding has written F and E (R37, R413; log 6) -/
  seeded : Bool
  /-- the word being executed inside a group (log 10) -/
  issue : Issue
  /-- the bytes the current program's run handed to the finisher (R270, R460; log 22) -/
  output : Option (List Byte)
  deriving DecidableEq, Repr

/-- Why no step is possible. -/
inductive Fault where
  /-- Raised by `step` when the fault record is set: a faulted instance takes no further step (R410, R419, U12).
  Safe: the model stops where the spec stops. -/
  | instanceStopped
  /-- Raised by `step` when the instance waits for the host and no interaction is queued; DONE has no successor of
  its own (R269). Safe: the model stops where no rule gives a step (log 7). -/
  | awaitingHost
  deriving DecidableEq, Repr

/-- What the model gives no meaning to. -/
inductive Refusal where
  /-- Raised by `exec` for an instruction that has no meaning yet: none is left. Safe. -/
  | notModelled (mnemonic : String)
  /-- Raised by `step` before anything else when a parameter is outside its range (R9, U1), and by the compile
  engine when the frequency table leaves an opcode byte without a class (D11). Safe. -/
  | badConfiguration
  /-- Raised by `step` for a batch launched before the compile engine has written a program (R106, U31). Safe. -/
  | launchBeforeCompile
  /-- Raised by `step` for a batch with `NUM_ITER` = 0, outside the range of R268. Safe. -/
  | emptyBatch
  /-- Raised by `step` when the host hands over a memory that is not in canonical form or has a byte outside the
  buffer it is for (R81, R83). Safe. -/
  | badHostMemory
  deriving DecidableEq, Repr

/-- The same value in all eight places. -/
def Bank8.const {α : Type} (x : α) : Bank8 α := ⟨x, x, x, x, x, x, x, x⟩

/-- The same value in all four places. -/
def Bank4.const {α : Type} (x : α) : Bank4 α := ⟨x, x, x, x⟩

/-- The same number for every resource. -/
def ResTable.const (k : Nat) : ResTable := ⟨.const k, .const k, .const k, k, k⟩

/-- A lane with no request (R53). -/
def Lane.fresh (pc : Nat) (fprc : BitVec 2) : Lane := ⟨pc, fprc, false, 0, false, 0⟩

/-- The compile engine at the start of a program (R57–R59, R202, R221). -/
def Compiler.initial : Compiler where
  hist := .const ⟨-1, false, 0⟩
  branches := []
  wAvail := .const 0
  memAvailHigh := 0
  rFree := .const 0
  cutFloor := 0
  lastUsedCycle := -1
  used := []
  placed := []
  occupied := 0

/-- The start of a hash (R450, R451). `fprc` = 0, `fault` = NONE and the request bits 0 are the spec's, and so is that
no entry of `imm` and no word of `prog` has a value, which the empty lists say. Every other value is the model's
(DESIGN CHOICE, log 3), `prog_len` = 0 among them: R451 gives `prog_len` no value before the first compile, R45 has it
in 1–256, and the model reads it as the length of the empty `prog`. The parameters are log 1's. -/
def State.reset : State where
  r := .const 0
  f := .const ⟨0, 0⟩
  e := .const ⟨0, 0⟩
  a := .const ⟨0x3FF0000000000000, 0x3FF0000000000000⟩
  ma := 0
  mx := 0
  readReg := ⟨0, 2, 4, 6⟩
  eMask0 := 0x3000000000000000
  eMask1 := 0x3000000000000000
  datasetOffset := 0
  fprc := 0
  imm := []
  prog := []
  pc := 0
  phase := .done
  round := 0
  spAddr0 := 0
  spAddr1 := 0
  first := false
  last := false
  numIter := 1
  lanes := List.replicate 4 (.fresh 0 0)
  fault := none
  scratch := []
  dataset := []
  entropy := []
  compiler := .initial
  params := Config.defaultParams
  agent := .host
  hostQueue := []
  decoded := false
  seeded := false
  issue := ⟨0, 0, false⟩
  output := none

end Sys2Proof.Machine
end

