-- ==== Sys2Proof/Machine/Ops.lean ====
section
/-! DEFINITION. The named operations over registers, memory, lanes and the fault record. Every read or write of a
register or a memory byte by an instruction, a round step or the compile engine goes through these. -/

namespace Sys2Proof.Machine

open Sys2Proof.Config (RoundMode)

/-! ### Register banks -/

/-- Read one of eight. -/
def Bank8.get {α : Type} (b : Bank8 α) (j : Fin 8) : α :=
  match j with
  | 0 => b.x0
  | 1 => b.x1
  | 2 => b.x2
  | 3 => b.x3
  | 4 => b.x4
  | 5 => b.x5
  | 6 => b.x6
  | 7 => b.x7

/-- Write one of eight. -/
def Bank8.set {α : Type} (b : Bank8 α) (j : Fin 8) (v : α) : Bank8 α :=
  match j with
  | 0 => { b with x0 := v }
  | 1 => { b with x1 := v }
  | 2 => { b with x2 := v }
  | 3 => { b with x3 := v }
  | 4 => { b with x4 := v }
  | 5 => { b with x5 := v }
  | 6 => { b with x6 := v }
  | 7 => { b with x7 := v }

/-- The bank whose place `j` holds `g j`. -/
def Bank8.ofFn {α : Type} (g : Fin 8 → α) : Bank8 α := ⟨g 0, g 1, g 2, g 3, g 4, g 5, g 6, g 7⟩

/-- Read one of four. -/
def Bank4.get {α : Type} (b : Bank4 α) (j : Fin 4) : α :=
  match j with
  | 0 => b.x0
  | 1 => b.x1
  | 2 => b.x2
  | 3 => b.x3

/-- Write one of four. -/
def Bank4.set {α : Type} (b : Bank4 α) (j : Fin 4) (v : α) : Bank4 α :=
  match j with
  | 0 => { b with x0 := v }
  | 1 => { b with x1 := v }
  | 2 => { b with x2 := v }
  | 3 => { b with x3 := v }

/-- The bank whose place `j` holds `g j`. -/
def Bank4.ofFn {α : Type} (g : Fin 4 → α) : Bank4 α := ⟨g 0, g 1, g 2, g 3⟩

/-- One half of a floating register (R12). -/
def FReg.half (x : FReg) : Half → Word64
  | .lo => x.lo
  | .hi => x.hi

/-- The floating register whose halves are given by `g` (R344). -/
def FReg.ofHalves (g : Half → Word64) : FReg := ⟨g .lo, g .hi⟩

/-! ### Registers of the instance -/

/-- `r[j]` (R12, R32). -/
def State.reg (s : State) (j : Fin 8) : Word64 := s.r.get j

/-- `r[j] <- v` (R12). -/
def State.setReg (s : State) (j : Fin 8) (v : Word64) : State := { s with r := s.r.set j v }

/-- `f[j]` (R34). -/
def State.fReg (s : State) (j : Fin 4) : FReg := s.f.get j

/-- `f[j] <- v` (R34). -/
def State.setFReg (s : State) (j : Fin 4) (v : FReg) : State := { s with f := s.f.set j v }

/-- `e[j]` (R35). -/
def State.eReg (s : State) (j : Fin 4) : FReg := s.e.get j

/-- `e[j] <- v` (R35). -/
def State.setEReg (s : State) (j : Fin 4) (v : FReg) : State := { s with e := s.e.set j v }

/-- `a[j]`, which no operation writes during execution (R36, R345). -/
def State.aReg (s : State) (j : Fin 4) : FReg := s.a.get j

/-- `eMask[0]` for `lo`, `eMask[1]` for `hi` (R42). -/
def State.eMask (s : State) : Half → Word64
  | .lo => s.eMask0
  | .hi => s.eMask1

/-- `prog_len` (R45). -/
def State.progLen (s : State) : Nat := s.prog.length

/-- `imm[k]`; an entry with no value is guarded by `State.isWritten` before any use (R46, R413). -/
def State.immEntry (s : State) (k : Nat) : Word32 := (s.imm[k]?).getD 0

/-! ### Memory -/

/-- What an address that is not listed reads as: 0, as the host's zeroed buffer holds (DESIGN CHOICE, log 4). -/
def Memory.unlisted : Byte := 0

/-- Read one byte. -/
def Memory.read (m : Memory) (a : Nat) : Byte :=
  match m with
  | [] => Memory.unlisted
  | c :: rest => if c.1 = a then c.2 else Memory.read rest a

/-- Put a byte in front of the list, unless it is what an unlisted address reads as. -/
def Memory.consCell (a : Nat) (b : Byte) (m : Memory) : Memory :=
  if b = Memory.unlisted then m else (a, b) :: m

/-- Write one byte, keeping the canonical form. -/
def Memory.write (m : Memory) (a : Nat) (b : Byte) : Memory :=
  match m with
  | [] => Memory.consCell a b []
  | c :: rest =>
    if c.1 < a then c :: Memory.write rest a b
    else if c.1 = a then Memory.consCell a b rest
    else Memory.consCell a b (c :: rest)

/-- Canonical form from an address up: addresses rising, none below `lo`, no entry an unlisted address reads as. -/
def Memory.wfFrom (lo : Nat) : Memory → Bool
  | [] => true
  | c :: rest => decide (lo ≤ c.1) && decide (c.2 ≠ Memory.unlisted) && Memory.wfFrom (c.1 + 1) rest

/-- The canonical form. -/
def Memory.wf (m : Memory) : Bool := Memory.wfFrom 0 m

/-- Every listed address lies below `size`. -/
def Memory.inside (size : Nat) (m : Memory) : Bool := m.all fun c => decide (c.1 < size)

/-- The 64-bit word of eight bytes from `a` up, little-endian (R13, R84). -/
def Memory.readWord (m : Memory) (a : Nat) : Word64 :=
  m.read (a + 7) ++ m.read (a + 6) ++ m.read (a + 5) ++ m.read (a + 4) ++ m.read (a + 3) ++ m.read (a + 2)
    ++ m.read (a + 1) ++ m.read a

/-- Byte `k` of a 64-bit word, byte 0 the least significant (R84). -/
def word64Byte (v : Word64) (k : Nat) : Byte := BitVec.ofNat 8 (v.toNat / 2 ^ (8 * k))

/-- Write the low `k` bytes of `v` from `a` up. -/
def Memory.writeBytes (m : Memory) (a : Nat) (v : Word64) : Nat → Memory
  | 0 => m
  | k + 1 => (Memory.writeBytes m a v k).write (a + k) (word64Byte v k)

/-- Write a 64-bit word, little-endian (R13, R84). -/
def Memory.writeWord (m : Memory) (a : Nat) (v : Word64) : Memory := Memory.writeBytes m a v 8

/-- `SpRead(addr, 8)` (R13, R92). -/
def State.spRead (s : State) (a : Nat) : Word64 := s.scratch.readWord a

/-- `SpWrite(addr, 8, v)` (R13, R92). -/
def State.spWrite (s : State) (a : Nat) (v : Word64) : State := { s with scratch := s.scratch.writeWord a v }

/-- `DsRead(addr, 8)` (R13, R96). -/
def State.dsRead (s : State) (a : Nat) : Word64 := s.dataset.readWord a

/-! ### Faults: taking one, and why there is no return -/

/-- `raise Fault(reason)` (R14, R410): the record is set if it is NONE, and nothing else changes (R415). There is
no handler to enter and no return from a fault (R418, R419): a stopped instance takes no step, which `step` says. -/
def State.raise (s : State) (rec : FaultRecord) : State :=
  match s.fault with
  | none => { s with fault := some rec }
  | some _ => s

/-- Whether a value has been written (R413; log 6): an immediate entry or program word below the count the compile
engine wrote; a half of F or E once the batch's first seeding wrote it; a field of the decoder once it has run. -/
def State.isWritten (s : State) : Location → Bool
  | .imm k => decide (k < s.imm.length)
  | .prog k => decide (k < s.prog.length)
  | .f _ _ => s.seeded
  | .e _ _ => s.seeded
  | .r _ => s.decoded
  | .a _ _ => s.decoded
  | .eMask _ => s.decoded
  | .readReg _ => s.decoded
  | .ma => s.decoded
  | .mx => s.decoded
  | .datasetOffset => s.decoded

/-- The first of the named places that has no value. -/
def State.firstUnwritten (s : State) (places : List Location) : Option Location :=
  places.find? fun l => !s.isWritten l

/-- The outcome of the word being executed when it raises a fault: the record is set and none of the word's effect
happens (R410, R415). -/
def State.faultWord (s : State) (rec : FaultRecord) : Host.Outcome State Fault Refusal := .next (s.raise rec)

/-- Run a word's effect on the state if every place it reads has a value, else raise UNWRITTEN_READ for the first
that has none (R300, R413; log 6). -/
def State.reading (s : State) (places : List Location) (effect : Host.Outcome State Fault Refusal) :
    Host.Outcome State Fault Refusal :=
  match s.firstUnwritten places with
  | some l => s.faultWord (.unwrittenRead s.pc s.issue.word l)
  | none => effect

/-! ### Lanes -/

/-- The lanes the word being executed runs on (R257). -/
def Issue.lanes (u : Issue) : List Nat := if u.paired then [u.lane, u.lane + 1] else [u.lane]

/-- Apply `g` to lane `i`; no lane has the number, no change. -/
def State.modifyLane (s : State) (i : Nat) (g : Lane → Lane) : State := { s with lanes := s.lanes.modify i g }

/-- The word being executed requests a jump on its lanes (R380: `jreq <- 1 ; jtgt <- target`). -/
def State.requestJump (s : State) (target : BitVec 16) : State :=
  s.issue.lanes.foldl (fun t i => t.modifyLane i fun l => { l with jreq := true, jtgt := target }) s

/-- The word being executed requests a rounding mode on its lanes (R385: `rreq <- 1 ; rval <- mode`). -/
def State.requestRounding (s : State) (mode : BitVec 2) : State :=
  s.issue.lanes.foldl (fun t i => t.modifyLane i fun l => { l with rreq := true, rval := mode }) s

/-- The lane that computes half `h` of the word being executed: the second of a pair computes `hi` (R257). -/
def Issue.laneOfHalf (u : Issue) (h : Half) : Nat :=
  match h with
  | .lo => u.lane
  | .hi => if u.paired then u.lane + 1 else u.lane

/-- The rounding direction of the lane that computes half `h`: `lane_fprc[i]` (R258, R340), which equals `fprc`
outside a group (R53). -/
def State.modeOf (s : State) (h : Half) : RoundMode :=
  roundModeOf (((s.lanes[s.issue.laneOfHalf h]?).map (·.fprc)).getD s.fprc)

end Sys2Proof.Machine
end

