-- ==== Sys2Proof/Machine/Operands.lean ====
section
/-! DEFINITION. The operand forms of the compiled instructions: immediates (R130), effective addresses (R86–R88),
the second operand of the two-operand classes (R301), integer and floating memory operands (R302, R343), and the
places each form reads (R413). -/

namespace Sys2Proof.Machine

/-! ### Immediates -/

/-- `sext_32` (R11). -/
def sext32 (v : Word32) : Word64 := v.signExtend 64

/-- `I = sext_32(imm[k])` (R130, R300). -/
def State.immSext (s : State) (k : Nat) : Word64 := sext32 (s.immEntry k)

/-- `imm[k] & 63`, a rotation amount (R130). -/
def State.immAmount (s : State) (k : Nat) : Nat := (s.immEntry k).toNat % 64

/-- The 64-bit constant `(imm[k+1], imm[k])` of IMUL_RCP (R130). -/
def State.immWord64 (s : State) (k : Nat) : Word64 := s.immEntry (k + 1) ++ s.immEntry k

/-! ### Effective addresses -/

/-- The window masks of R86. A word without a memory operand has none. -/
def windowMask : Loc → Word64
  | .file => 0
  | .l1 => 0x3FF8
  | .l2 => 0x3FFF8
  | .l3 => 0x1FFFF8

/-- `MASK_L3_64` (R86). -/
def rowMask : Word32 := 0x1FFFC0

/-- `EA(s, imm32, L)` of a base value (R87). -/
def effAddr (base : Word64) (imm : Word32) (window : Loc) : Nat := ((base + sext32 imm) &&& windowMask window).toNat

/-- `EAI(imm32)` (R88). -/
def effAddrImm (imm : Word32) : Nat := (imm.setWidth 64 &&& windowMask .l3).toNat

/-- The address of an integer load: the immediate alone for `loc` = 3, else base and immediate (R302). -/
def State.loadAddr (s : State) (w : Fields) : Nat :=
  match w.loc with
  | .l3 => effAddrImm (s.immEntry w.immIdx.val)
  | .file | .l1 | .l2 => effAddr (s.reg w.src) (s.immEntry w.immIdx.val) w.loc

/-- The address of a floating load (R343). -/
def State.fLoadAddr (s : State) (w : Fields) : Nat := effAddr (s.reg w.src) (s.immEntry w.immIdx.val) w.loc

/-- The address ISTORE stores to: the base is `r[dst]`, whatever the window (R387). -/
def State.storeAddr (s : State) (w : Fields) : Nat := effAddr (s.reg w.dst) (s.immEntry w.immIdx.val) w.loc

/-! ### Operand values -/

/-- The second operand of ISUB_R, IMUL_R and IXOR_R: `r[s]`, or the immediate when `s = d` (R301). -/
def State.operand2 (s : State) (w : Fields) : Word64 :=
  if w.src = w.dst then s.immSext w.immIdx.val else s.reg w.src

/-- The rotation amount of IROR_R and IROL_R, modulo 64 (R301, R317). -/
def State.rotateAmount (s : State) (w : Fields) : Nat :=
  if w.src = w.dst then s.immAmount w.immIdx.val else (s.reg w.src).toNat % 64

/-- The memory operand `M` of an integer load (R302). -/
def State.loadOperand (s : State) (w : Fields) : Word64 := s.spRead (s.loadAddr w)

/-- The conversion of a loaded word, by half (R85, R341). -/
def cvtPair (v : Word64) : Half → Word64
  | .lo => cvtI32 (BitVec.ofNat 32 v.toNat)
  | .hi => cvtI32 (BitVec.ofNat 32 (v.toNat / 2 ^ 32))

/-- The converted memory operand `Mlo`, `Mhi` of a floating load (R343). -/
def State.fLoadOperand (s : State) (w : Fields) (h : Half) : Word64 := cvtPair (s.spRead (s.fLoadAddr w)) h

/-! ### Register fields of floating words -/

/-- One of four floating registers: the field's low two bits, its third being 0 in a legal word (R127, R345). -/
def quad (j : Fin 8) : Fin 4 := Fin.ofNat 4 j.val

/-! ### The places a form reads (R413) -/

/-- Places of the two-operand classes: the immediate entry when `s = d` (R129, R301). -/
def operand2Places (w : Fields) : List Location :=
  if w.src = w.dst then [.imm w.immIdx.val, .r w.dst] else [.r w.dst, .r w.src]

/-- Places of an integer load (R302). -/
def loadPlaces (w : Fields) : List Location :=
  match w.loc with
  | .l3 => [.imm w.immIdx.val, .r w.dst]
  | .file | .l1 | .l2 => [.imm w.immIdx.val, .r w.dst, .r w.src]

/-- Both halves of `f[j]`. -/
def fPlaces (j : Fin 4) : List Location := [.f j .lo, .f j .hi]

/-- Both halves of `e[j]`. -/
def ePlaces (j : Fin 4) : List Location := [.e j .lo, .e j .hi]

/-- Both halves of `a[j]`. -/
def aPlaces (j : Fin 4) : List Location := [.a j .lo, .a j .hi]

/-- Places of a floating load but its destination (R343). -/
def fLoadPlaces (w : Fields) : List Location := [.imm w.immIdx.val, .r w.src]

/-! ### Executing one word -/

/-- Execute the word `i`: an illegal word raises BAD_WORD (R132); a legal one reads `places`, raising UNWRITTEN_READ
for the first that has no value (R413), and then has its effect. This order is R414's. -/
def State.executing (s : State) (i : Instr) (places : List Location) (effect : Host.Outcome State Fault Refusal) :
    Host.Outcome State Fault Refusal :=
  if i.legal then s.reading places effect else s.faultWord (.badWord s.pc s.issue.word (encodeWord i))

end Sys2Proof.Machine
end

