-- ==== Sys2Proof/Machine/Flags.lean ====
section
/-! DEFINITION. The core has no status flags, condition codes or predicate registers, and no instruction writes a
flag (R55). What stands in their place is CBRANCH's test of register bits, which is here. -/

namespace Sys2Proof.Machine

/-- The tested bits: `JUMP_BITS` of them from bit `b` up (R380). -/
def jumpMask (b : Nat) : Word64 := BitVec.ofNat 64 ((2 ^ Config.jumpBits - 1) * 2 ^ b)

/-- The branch is taken when every tested bit of the sum is 0 (R380). -/
def jumpTaken (v : Word64) (b : Nat) : Bool := v &&& jumpMask b == 0

end Sys2Proof.Machine
end

