-- ==== Sys2Proof/Machine/Integer.lean ====
section
/-! DEFINITION. The integer instructions and NOP (43_integer, R300–R320). All arithmetic is modulo 2^64 (R11). -/

namespace Sys2Proof.Machine

/-! ### Arithmetic on words -/

/-- The unsigned high half of the product (R309). -/
def mulHigh (x y : Word64) : Word64 := BitVec.ofNat 64 (x.toNat * y.toNat / 2 ^ 64)

/-- The signed high half of the product, with an arithmetic shift (R311). -/
def mulHighSigned (x y : Word64) : Word64 := BitVec.ofInt 64 (x.toInt * y.toInt / 2 ^ 64)

/-- `rotr64` (R11). -/
def rotr64 (x : Word64) (c : Nat) : Word64 := x.rotateRight c

/-- `rotl64` (R11). -/
def rotl64 (x : Word64) (c : Nat) : Word64 := x.rotateLeft c

/-! ### Addition and subtraction -/

/-- IADD_RS (R303): only register 5 has a displacement. -/
def execIaddRs (w : Fields) (s : State) : Host.Outcome State Fault Refusal :=
  s.executing (.iaddRs w)
    (if w.dst = 5 then [.imm w.immIdx.val, .r w.dst, .r w.src] else [.r w.dst, .r w.src])
    (.next
      (s.setReg w.dst
        (s.reg w.dst + (s.reg w.src <<< w.shift.val) + (if w.dst = 5 then s.immSext w.immIdx.val else 0))))

/-- IADD_M (R304). -/
def execIaddM (w : Fields) (s : State) : Host.Outcome State Fault Refusal :=
  s.executing (.iaddM w) (loadPlaces w) (.next (s.setReg w.dst (s.reg w.dst + s.loadOperand w)))

/-- ISUB_R (R305): with `s = d` it subtracts the immediate. -/
def execIsubR (w : Fields) (s : State) : Host.Outcome State Fault Refusal :=
  s.executing (.isubR w) (operand2Places w) (.next (s.setReg w.dst (s.reg w.dst - s.operand2 w)))

/-- ISUB_M (R306). -/
def execIsubM (w : Fields) (s : State) : Host.Outcome State Fault Refusal :=
  s.executing (.isubM w) (loadPlaces w) (.next (s.setReg w.dst (s.reg w.dst - s.loadOperand w)))

/-! ### Multiplication -/

/-- IMUL_R (R307). -/
def execImulR (w : Fields) (s : State) : Host.Outcome State Fault Refusal :=
  s.executing (.imulR w) (operand2Places w) (.next (s.setReg w.dst (s.reg w.dst * s.operand2 w)))

/-- IMUL_M (R308). -/
def execImulM (w : Fields) (s : State) : Host.Outcome State Fault Refusal :=
  s.executing (.imulM w) (loadPlaces w) (.next (s.setReg w.dst (s.reg w.dst * s.loadOperand w)))

/-- IMULH_R (R309): no immediate form, `s = d` squares. -/
def execImulhR (w : Fields) (s : State) : Host.Outcome State Fault Refusal :=
  s.executing (.imulhR w) [.r w.dst, .r w.src] (.next (s.setReg w.dst (mulHigh (s.reg w.dst) (s.reg w.src))))

/-- IMULH_M (R310). -/
def execImulhM (w : Fields) (s : State) : Host.Outcome State Fault Refusal :=
  s.executing (.imulhM w) (loadPlaces w) (.next (s.setReg w.dst (mulHigh (s.reg w.dst) (s.loadOperand w))))

/-- ISMULH_R (R311): no immediate form. -/
def execIsmulhR (w : Fields) (s : State) : Host.Outcome State Fault Refusal :=
  s.executing (.ismulhR w) [.r w.dst, .r w.src]
    (.next (s.setReg w.dst (mulHighSigned (s.reg w.dst) (s.reg w.src))))

/-- ISMULH_M (R312). -/
def execIsmulhM (w : Fields) (s : State) : Host.Outcome State Fault Refusal :=
  s.executing (.ismulhM w) (loadPlaces w) (.next (s.setReg w.dst (mulHighSigned (s.reg w.dst) (s.loadOperand w))))

/-- IMUL_RCP (R313): the reciprocal is in the two immediate entries; `src` is ignored. -/
def execImulRcp (w : Fields) (s : State) : Host.Outcome State Fault Refusal :=
  s.executing (.imulRcp w) [.imm w.immIdx.val, .imm (w.immIdx.val + 1), .r w.dst]
    (.next (s.setReg w.dst (s.reg w.dst * s.immWord64 w.immIdx.val)))

/-! ### Negation, logic and rotation -/

/-- INEG_R (R314): `src` is ignored. -/
def execInegR (w : Fields) (s : State) : Host.Outcome State Fault Refusal :=
  s.executing (.inegR w) [.r w.dst] (.next (s.setReg w.dst (0 - s.reg w.dst)))

/-- IXOR_R (R315). -/
def execIxorR (w : Fields) (s : State) : Host.Outcome State Fault Refusal :=
  s.executing (.ixorR w) (operand2Places w) (.next (s.setReg w.dst (s.reg w.dst ^^^ s.operand2 w)))

/-- IXOR_M (R316). -/
def execIxorM (w : Fields) (s : State) : Host.Outcome State Fault Refusal :=
  s.executing (.ixorM w) (loadPlaces w) (.next (s.setReg w.dst (s.reg w.dst ^^^ s.loadOperand w)))

/-- IROR_R (R317). -/
def execIrorR (w : Fields) (s : State) : Host.Outcome State Fault Refusal :=
  s.executing (.irorR w) (operand2Places w) (.next (s.setReg w.dst (rotr64 (s.reg w.dst) (s.rotateAmount w))))

/-- IROL_R (R318). -/
def execIrolR (w : Fields) (s : State) : Host.Outcome State Fault Refusal :=
  s.executing (.irolR w) (operand2Places w) (.next (s.setReg w.dst (rotl64 (s.reg w.dst) (s.rotateAmount w))))

/-- ISWAP_R (R319): both values are read first; a compiled word with `s = d` has no effect. -/
def execIswapR (w : Fields) (s : State) : Host.Outcome State Fault Refusal :=
  s.executing (.iswapR w) [.r w.dst, .r w.src]
    (.next ((s.setReg w.dst (s.reg w.src)).setReg w.src (s.reg w.dst)))

/-- NOP (R320): the compiled placeholder of a degenerate instruction. -/
def execNop (w : Fields) (s : State) : Host.Outcome State Fault Refusal := s.executing (.nop w) [] (.next s)

end Sys2Proof.Machine
end

