-- ==== Sys2Proof/Machine/Control.lean ====
section
/-! DEFINITION. CBRANCH, CFROUND and ISTORE (45_control_store, R380–R388). -/

namespace Sys2Proof.Machine

/-- The bit position `b` in CBRANCH's second entry (R380). -/
def branchBit (second : Word32) : Nat := bitField second.toNat 16 5

/-- The target in CBRANCH's second entry (R380). -/
def branchTarget (second : Word32) : Nat := bitField second.toNat 0 16

/-- The second entry is well formed: bits [31:21] are 0 and `b` is in its range (R381). -/
def branchEntryLegal (second : Word32) : Bool :=
  bitField second.toNat 21 11 == 0 && decide (Config.jumpOffset ≤ branchBit second)
    && decide (branchBit second ≤ Config.jumpOffset + 15)

/-- CBRANCH (R380): the register is written whether or not the branch is taken; a taken branch requests the jump
the group's end resolves (R259). The checks of R381 run first, taken or not. -/
def execCbranch (w : Fields) (s : State) : Host.Outcome State Fault Refusal :=
  let k := w.immIdx.val
  let second := s.immEntry (k + 1)
  let sum := s.reg w.dst + s.immSext k
  s.executing (.cbranch w) [.imm k, .imm (k + 1), .r w.dst]
    (if branchEntryLegal second then
      if branchTarget second < s.progLen then
        .next
          (if jumpTaken sum (branchBit second) then
            (s.setReg w.dst sum).requestJump (BitVec.ofNat 16 (branchTarget second))
          else s.setReg w.dst sum)
      else s.faultWord (.badTarget s.pc s.issue.word (branchTarget second))
    else s.faultWord (.badWord s.pc s.issue.word (encodeWord (.cbranch w))))

/-- The rounding mode a CFROUND requests (R385). -/
def State.roundingRequest (s : State) (w : Fields) : BitVec 2 :=
  BitVec.ofNat 2 (rotr64 (s.reg w.src) (s.immAmount w.immIdx.val)).toNat

/-- CFROUND (R385): the mode takes effect at the group's end (R260); no register changes. -/
def execCfround (w : Fields) (s : State) : Host.Outcome State Fault Refusal :=
  s.executing (.cfround w) [.imm w.immIdx.val, .r w.src] (.next (s.requestRounding (s.roundingRequest w)))

/-- ISTORE (R387). -/
def execIstore (w : Fields) (s : State) : Host.Outcome State Fault Refusal :=
  s.executing (.istore w) [.imm w.immIdx.val, .r w.dst, .r w.src]
    (.next (s.spWrite (s.storeAddr w) (s.reg w.src)))

end Sys2Proof.Machine
end

