-- ==== Sys2Proof/Machine/Float.lean ====
section
/-! DEFINITION. The floating instructions (44_float, R340–R354). Each works on the two halves independently, every
half in the rounding direction of the lane that computes it (R340, R344); FSWAP_R moves halves across (R346). -/

namespace Sys2Proof.Machine

open Sys2Proof.Config (RoundMode)

/-- Apply a rounding operation half by half, in each half's direction (R344). -/
def State.byHalf (s : State) (op : RoundMode → Word64 → Word64 → Word64) (x : FReg) (y : Half → Word64) : FReg :=
  FReg.ofHalves fun h => op (s.modeOf h) (x.half h) (y h)

/-- The constant FSCAL_R flips sign and exponent bits with (R351). -/
def fscalMask : Word64 := 0x80F0000000000000

/-- FSWAP_R (R346): `f[d]` for `d` < 4, `e[d − 4]` otherwise; patterns move unchanged. -/
def execFswapR (w : Fields) (s : State) : Host.Outcome State Fault Refusal :=
  if w.dst.val < 4 then
    s.executing (.fswapR w) (fPlaces (quad w.dst))
      (.next (s.setFReg (quad w.dst) (FReg.ofHalves fun h => (s.fReg (quad w.dst)).half h.other)))
  else
    s.executing (.fswapR w) (ePlaces (quad w.dst))
      (.next (s.setEReg (quad w.dst) (FReg.ofHalves fun h => (s.eReg (quad w.dst)).half h.other)))

/-- FADD_R (R347). -/
def execFaddR (w : Fields) (s : State) : Host.Outcome State Fault Refusal :=
  s.executing (.faddR w) (fPlaces (quad w.dst) ++ aPlaces (quad w.src))
    (.next (s.setFReg (quad w.dst) (s.byHalf fadd (s.fReg (quad w.dst)) (s.aReg (quad w.src)).half)))

/-- FADD_M (R348): the conversion is exact, only the addition rounds. -/
def execFaddM (w : Fields) (s : State) : Host.Outcome State Fault Refusal :=
  s.executing (.faddM w) (fLoadPlaces w ++ fPlaces (quad w.dst))
    (.next (s.setFReg (quad w.dst) (s.byHalf fadd (s.fReg (quad w.dst)) (s.fLoadOperand w))))

/-- FSUB_R (R349). -/
def execFsubR (w : Fields) (s : State) : Host.Outcome State Fault Refusal :=
  s.executing (.fsubR w) (fPlaces (quad w.dst) ++ aPlaces (quad w.src))
    (.next (s.setFReg (quad w.dst) (s.byHalf fsub (s.fReg (quad w.dst)) (s.aReg (quad w.src)).half)))

/-- FSUB_M (R350). -/
def execFsubM (w : Fields) (s : State) : Host.Outcome State Fault Refusal :=
  s.executing (.fsubM w) (fLoadPlaces w ++ fPlaces (quad w.dst))
    (.next (s.setFReg (quad w.dst) (s.byHalf fsub (s.fReg (quad w.dst)) (s.fLoadOperand w))))

/-- FSCAL_R (R351): a bitwise XOR, no rounding. -/
def execFscalR (w : Fields) (s : State) : Host.Outcome State Fault Refusal :=
  s.executing (.fscalR w) (fPlaces (quad w.dst))
    (.next (s.setFReg (quad w.dst) (FReg.ofHalves fun h => (s.fReg (quad w.dst)).half h ^^^ fscalMask)))

/-- FMUL_R (R352). -/
def execFmulR (w : Fields) (s : State) : Host.Outcome State Fault Refusal :=
  s.executing (.fmulR w) (ePlaces (quad w.dst) ++ aPlaces (quad w.src))
    (.next (s.setEReg (quad w.dst) (s.byHalf fmul (s.eReg (quad w.dst)) (s.aReg (quad w.src)).half)))

/-- FDIV_M (R353): the divisor is the masked conversion. -/
def execFdivM (w : Fields) (s : State) : Host.Outcome State Fault Refusal :=
  s.executing (.fdivM w) (fLoadPlaces w ++ ePlaces (quad w.dst) ++ [.eMask .lo, .eMask .hi])
    (.next
      (s.setEReg (quad w.dst)
        (s.byHalf fdiv (s.eReg (quad w.dst)) fun h => maskE (s.fLoadOperand w h) (s.eMask h))))

/-- FSQRT_R (R354). -/
def execFsqrtR (w : Fields) (s : State) : Host.Outcome State Fault Refusal :=
  s.executing (.fsqrtR w) (ePlaces (quad w.dst))
    (.next
      (s.setEReg (quad w.dst) (FReg.ofHalves fun h => fsqrt (s.modeOf h) ((s.eReg (quad w.dst)).half h))))

end Sys2Proof.Machine
end

