-- ==== Sys2Proof/Machine/Dispatch.lean ====
section
/-! DEFINITION. One arm per instruction, each one call of its meaning. -/

namespace Sys2Proof.Machine

def exec (i : Instr) (s : State) : Host.Outcome State Fault Refusal :=
  match i with
  | .iaddRs w => Sys2Proof.Machine.execIaddRs w s
  | .iaddM w => Sys2Proof.Machine.execIaddM w s
  | .isubR w => Sys2Proof.Machine.execIsubR w s
  | .isubM w => Sys2Proof.Machine.execIsubM w s
  | .imulR w => Sys2Proof.Machine.execImulR w s
  | .imulM w => Sys2Proof.Machine.execImulM w s
  | .imulhR w => Sys2Proof.Machine.execImulhR w s
  | .imulhM w => Sys2Proof.Machine.execImulhM w s
  | .ismulhR w => Sys2Proof.Machine.execIsmulhR w s
  | .ismulhM w => Sys2Proof.Machine.execIsmulhM w s
  | .imulRcp w => Sys2Proof.Machine.execImulRcp w s
  | .inegR w => Sys2Proof.Machine.execInegR w s
  | .ixorR w => Sys2Proof.Machine.execIxorR w s
  | .ixorM w => Sys2Proof.Machine.execIxorM w s
  | .irorR w => Sys2Proof.Machine.execIrorR w s
  | .irolR w => Sys2Proof.Machine.execIrolR w s
  | .iswapR w => Sys2Proof.Machine.execIswapR w s
  | .fswapR w => Sys2Proof.Machine.execFswapR w s
  | .faddR w => Sys2Proof.Machine.execFaddR w s
  | .faddM w => Sys2Proof.Machine.execFaddM w s
  | .fsubR w => Sys2Proof.Machine.execFsubR w s
  | .fsubM w => Sys2Proof.Machine.execFsubM w s
  | .fscalR w => Sys2Proof.Machine.execFscalR w s
  | .fmulR w => Sys2Proof.Machine.execFmulR w s
  | .fdivM w => Sys2Proof.Machine.execFdivM w s
  | .fsqrtR w => Sys2Proof.Machine.execFsqrtR w s
  | .cbranch w => Sys2Proof.Machine.execCbranch w s
  | .cfround w => Sys2Proof.Machine.execCfround w s
  | .istore w => Sys2Proof.Machine.execIstore w s
  | .nop w => Sys2Proof.Machine.execNop w s

end Sys2Proof.Machine
end

