-- ==== Sys2Proof/Machine/Hazards.lean ====
section
/-! DEFINITION. What an instruction reads and writes, resource by resource (R208), and when two conflict. The
interpreter reads these sets from the compiled fields (R258); the scheduler from the instruction it will emit. -/

namespace Sys2Proof.Machine

/-- All resources, in the order R208 names them (log 12). -/
def Resource.all : List Resource :=
  [.r 0, .r 1, .r 2, .r 3, .r 4, .r 5, .r 6, .r 7, .f 0, .f 1, .f 2, .f 3, .e 0, .e 1, .e 2, .e 3, .fprc, .mem]

/-- `f[d]` for `d` < 4, else `e[d − 4]` (R346). -/
def swapResource (d : Fin 8) : Resource := if d.val < 4 then .f (quad d) else .e (quad d)

/-- `RS` (R208). A compiled ISWAP_R with `s = d` has no effect, and is the degenerate form: empty sets (log 12). -/
def readSet : Instr → List Resource
  | .iaddRs w | .imulhR w | .ismulhR w => [.r w.dst, .r w.src]
  | .isubR w | .imulR w | .ixorR w | .irorR w | .irolR w =>
    if w.src = w.dst then [.r w.dst] else [.r w.dst, .r w.src]
  | .iaddM w | .isubM w | .imulM w | .imulhM w | .ismulhM w | .ixorM w =>
    if w.src = w.dst then [.r w.dst, .mem] else [.r w.dst, .mem, .r w.src]
  | .imulRcp w | .inegR w => [.r w.dst]
  | .iswapR w => if w.src = w.dst then [] else [.r w.dst, .r w.src]
  | .fswapR w => [swapResource w.dst]
  | .faddR w | .fsubR w => [.f (quad w.dst), .fprc]
  | .faddM w | .fsubM w => [.f (quad w.dst), .r w.src, .mem, .fprc]
  | .fscalR w => [.f (quad w.dst)]
  | .fmulR w | .fsqrtR w => [.e (quad w.dst), .fprc]
  | .fdivM w => [.e (quad w.dst), .r w.src, .mem, .fprc]
  | .cbranch w => [.r w.dst]
  | .cfround w => [.r w.src]
  | .istore w => [.r w.dst, .r w.src, .mem]
  | .nop _ => []

/-- `WS` (R208). -/
def writeSet : Instr → List Resource
  | .iaddRs w | .imulhR w | .ismulhR w | .isubR w | .imulR w | .ixorR w | .irorR w | .irolR w
  | .iaddM w | .isubM w | .imulM w | .imulhM w | .ismulhM w | .ixorM w | .imulRcp w | .inegR w
  | .cbranch w => [.r w.dst]
  | .iswapR w => if w.src = w.dst then [] else [.r w.dst, .r w.src]
  | .fswapR w => [swapResource w.dst]
  | .faddR w | .fsubR w | .faddM w | .fsubM w | .fscalR w => [.f (quad w.dst)]
  | .fmulR w | .fsqrtR w | .fdivM w => [.e (quad w.dst)]
  | .cfround _ => [.fprc]
  | .istore _ => [.mem]
  | .nop _ => []

/-- `i` and a later `j` conflict on `x`: one writes what the other reads or writes (R208). -/
def conflictOn (i j : Instr) (x : Resource) : Bool :=
  ((writeSet i).contains x && ((readSet j).contains x || (writeSet j).contains x))
    || ((readSet i).contains x && (writeSet j).contains x)

/-- `i` and a later `j` conflict (R208). -/
def conflicts (i j : Instr) : Bool := Resource.all.any (conflictOn i j)

end Sys2Proof.Machine
end

