-- ==== Sys2Proof/Machine/Group.lean ====
section
/-! DEFINITION. One dispatch group (R256–R261): fetch and checks, the words' own effects all evaluated on the state
before the group, the conflict check, the effects applied together, and the resynchronisation. The order of the
checks is R414's, and a fault applies nothing (R415). -/

namespace Sys2Proof.Machine

/-- A word of a group: its instruction, its index in `prog`, and the lanes it runs on (R257). -/
structure Slot where
  issue : Issue
  instr : Instr
  deriving DecidableEq, Repr

/-- The lanes of word `j` of a group with `nf` floating words (R257): floating words take lane pairs, the others
the lanes after them; with one lane, that lane. -/
def issueOf (w pc nf j : Nat) : Issue :=
  if w = 1 then ⟨pc + j, 0, false⟩
  else if j < nf then ⟨pc + j, 2 * j, true⟩
  else ⟨pc + j, 2 * nf + (j - nf), false⟩

/-- Fetch word `idx` of `prog` and decode it; an illegal word is BAD_WORD (R132, R257). A word with no value is
UNWRITTEN_READ (R413): no program counter in range reaches one. -/
def State.fetchWord (s : State) (idx : Nat) : Except FaultRecord Instr :=
  match s.prog[idx]? with
  | none => .error (.unwrittenRead s.pc idx (.prog idx))
  | some w =>
    match decodeWord w with
    | .error _ => .error (.badWord s.pc idx w)
    | .ok i => if i.legal then .ok i else .error (.badWord s.pc idx w)

/-- Fetch `count` more words of the group, from word `j` of it on (R257). -/
def State.fetchRest (s : State) (nf : Nat) : Nat → Nat → Except FaultRecord (List Slot)
  | 0, _ => .ok []
  | count + 1, j =>
    match s.fetchWord (s.pc + j) with
    | .error rec => .error rec
    | .ok i =>
      match s.fetchRest nf count (j + 1) with
      | .error rec => .error rec
      | .ok rest => .ok (⟨issueOf s.params.w s.pc nf j, i⟩ :: rest)

/-- Fetch the group at `pc`: the first word's legality and counts, then the range, then the other words' legality
(R256, R257, R414). -/
def State.fetchGroup (s : State) : Except FaultRecord (List Slot) :=
  match s.fetchWord s.pc with
  | .error rec => .error rec
  | .ok i =>
    if groupCountsLegal s.params.w i.fields.n.val i.fields.nf.val then
      if s.pc + i.fields.n.val ≤ s.progLen then
        match s.fetchRest i.fields.nf.val (i.fields.n.val - 1) 1 with
        | .error rec => .error rec
        | .ok rest => .ok (⟨issueOf s.params.w s.pc i.fields.nf.val 0, i⟩ :: rest)
      else .error (.pcRange s.pc i.fields.n.val)
    else .error (.badWord s.pc s.pc ((s.prog[s.pc]?).getD 0))

/-- A word's own result: its instruction executed on the state before the group, on its lanes (R258). -/
def State.runSlot (s : State) (q : Slot) : Host.Outcome State Fault Refusal := exec q.instr { s with issue := q.issue }

/-- Every word's own result on the state before the group, in word order; the first fault a word raises ends it
(R258, R414). -/
def State.runSlots (s : State) : List Slot → Host.Outcome (Except FaultRecord (List (Slot × State))) Fault Refusal
  | [] => .next (.ok [])
  | q :: rest =>
    match s.runSlot q with
    | .fault x => .fault x
    | .refused x => .refused x
    | .next t =>
      match t.fault with
      | some rec => .next (.error rec)
      | none =>
        match s.runSlots rest with
        | .fault x => .fault x
        | .refused x => .refused x
        | .next (.error rec) => .next (.error rec)
        | .next (.ok results) => .next (.ok ((q, t) :: results))

/-- The first word after `q` that conflicts with it, and on what (R258). -/
def conflictWith (q : Slot) : List Slot → Option (Slot × Resource)
  | [] => none
  | p :: rest =>
    match Resource.all.find? (conflictOn q.instr p.instr) with
    | some x => some (p, x)
    | none => conflictWith q rest

/-- The first conflicting pair of a group, by word order, and its first resource (R258; log 12). -/
def firstConflict : List Slot → Option (Slot × Slot × Resource)
  | [] => none
  | q :: rest =>
    match conflictWith q rest with
    | some (p, x) => some (q, p, x)
    | none => firstConflict rest

/-- Take one resource's value from a word's result. `FPRC` is set by the resynchronisation alone (R260). -/
def State.takeResource (own : State) (s : State) (x : Resource) : State :=
  match x with
  | .r j => { s with r := s.r.set j (own.r.get j) }
  | .f j => { s with f := s.f.set j (own.f.get j) }
  | .e j => { s with e := s.e.set j (own.e.get j) }
  | .fprc => s
  | .mem => { s with scratch := own.scratch }

/-- Take one lane's requests from a word's result (R53). -/
def State.takeLane (own : State) (s : State) (i : Nat) : State :=
  match own.lanes[i]? with
  | none => s
  | some l => s.modifyLane i fun _ => l

/-- Apply one word's effect: the resources it writes and its lanes' requests, as its own result has them (R258). -/
def State.applyResult (s : State) (result : Slot × State) : State :=
  let written := (writeSet result.1.instr).foldl result.2.takeResource s
  result.1.issue.lanes.foldl result.2.takeLane written

/-- The target the lowest lane with a jump request broadcasts (R259). -/
def jumpVote (lanes : List Lane) : Option Nat := (lanes.find? (·.jreq)).map (·.jtgt.toNat)

/-- The mode the lowest lane with a rounding request broadcasts (R260). -/
def roundingVote (lanes : List Lane) : Option (BitVec 2) := (lanes.find? (·.rreq)).map (·.rval)

/-- The resynchronisation after a group of `n` words (R259–R261). A fault here keeps the effects and leaves `pc`
(R415). -/
def State.resync (s : State) (n : Nat) : State :=
  let target := (jumpVote s.lanes).getD (s.pc + n)
  let mode := (roundingVote s.lanes).getD s.fprc
  if s.progLen < target then s.raise (.pcRange s.pc n)
  else
    { s with
      pc := target
      fprc := mode
      lanes := s.lanes.map fun _ => Lane.fresh target mode
      phase := if target = s.progLen then .writeback else .dispatch }

/-- Execute the dispatch group at `pc` (R256–R261). -/
def State.groupStep (s : State) : Host.Outcome State Fault Refusal :=
  match s.fetchGroup with
  | .error rec => .next (s.raise rec)
  | .ok slots =>
    match s.runSlots slots with
    | .fault x => .fault x
    | .refused x => .refused x
    | .next (.error rec) => .next (s.raise rec)
    | .next (.ok results) =>
      match firstConflict slots with
      | some (q, p, x) => .next (s.raise (.groupConflict s.pc q.issue.word p.issue.word x))
      | none => .next ((results.foldl State.applyResult s).resync slots.length)

/-- One step of dispatching: a group while `pc < prog_len`; at `prog_len` dispatching has ended (R256, R261); past
it, PC_RANGE (R48, R412; log 14). -/
def State.dispatchStep (s : State) : Host.Outcome State Fault Refusal :=
  if s.pc < s.progLen then s.groupStep
  else if s.pc = s.progLen then .next { s with phase := .writeback }
  else .next (s.raise (.pcRange s.pc 0))

end Sys2Proof.Machine
end

