-- ==== Sys2Proof/Machine/ProgramDecoder.lean ====
section
/-! DEFINITION. The raw program decoder (40_program_decoder, R170–R180): the seed words give the program's constants,
and raw instruction `i` is read at byte `128 + 8i` of the entropy buffer. -/

namespace Sys2Proof.Machine

/-- Seed word `E[k]` (R170). -/
def State.seedWord (s : State) (k : Nat) : Word64 := s.entropy.readWord (8 * k)

/-- Raw instruction `I[i]` (R91, R170, R180); none only under a frequency table `Params.ok` refuses. -/
def State.rawInstr (s : State) (i : Nat) : Option RawInstr :=
  decodeRaw s.params.freq (s.entropy.readWord (Config.entropySeedBytes + 8 * i))

/-- The small-positive-float function `SPF` (R173). -/
def smallPositiveFloat (x : Word64) : Word64 :=
  BitVec.ofNat 64 ((x.toNat / 2 ^ 59 + 1023) % 2 ^ 11 * 2 ^ 52 + x.toNat % 2 ^ 52)

/-- The exponent-mask function `FM` (R176). -/
def exponentMask (x : Word64) : Word64 :=
  (x &&& 0x3FFFFF) ||| BitVec.ofNat 64 ((0x300 ||| (x.toNat / 2 ^ 60) * 2 ^ 4) * 2 ^ 52)

/-- `(DATASET_BASE_SIZE − 1) & ~63` (R174, R262). -/
def datasetAlignMask : Word32 := 0x7FFFFFC0

/-- The low 32 bits of a word. -/
def lowWord (x : Word64) : Word32 := BitVec.ofNat 32 x.toNat

/-- The high 32 bits of a word. -/
def highWord (x : Word64) : Word32 := BitVec.ofNat 32 (x.toNat / 2 ^ 32)

/-- Selector `k`: register `2k` or `2k + 1`, by bit `k` of `E[10]` (R177). -/
def readSelector (x : Word64) (k : Fin 4) : Fin 8 := Fin.ofNat 8 (2 * k.val + bitField x.toNat k.val 1)

/-- The decoder's writes (R172–R179). `fprc` and groups F and E are not written; F and E have no value from here
until the batch's first seeding (R37, R451). `pc`, `phase`, `round`, `spAddr0`, `spAddr1` and the lanes' `pc` and mode,
to which R451 gives no value at a program start, keep what the batch before left: DESIGN CHOICE (log 30). -/
def State.decodeSeeds (s : State) : State :=
  { s with
    r := .const 0
    a := Bank4.ofFn fun i =>
      ⟨smallPositiveFloat (s.seedWord (2 * i.val)), smallPositiveFloat (s.seedWord (2 * i.val + 1))⟩
    ma := lowWord (s.seedWord 8) &&& datasetAlignMask
    mx := lowWord (s.seedWord 9)
    readReg := Bank4.ofFn (readSelector (s.seedWord 10))
    datasetOffset :=
      BitVec.ofNat 64 ((s.seedWord 11).toNat % (s.params.datasetExtraItems + 1) * 64)
    eMask0 := exponentMask (s.seedWord 12)
    eMask1 := exponentMask (s.seedWord 13)
    decoded := true
    seeded := false }

end Sys2Proof.Machine
end

