-- ==== Sys2Proof/Machine/Round.lean ====
section
/-! DEFINITION. The two round steps around dispatching: seeding (R250–R255) and write-back (R262–R267), each one
atomic step of the instance (R254, R267), and the final output (R270). -/

namespace Sys2Proof.Machine

/-- `k` in 0–7. -/
def indices8 : List (Fin 8) := [0, 1, 2, 3, 4, 5, 6, 7]

/-- `k` in 0–3. -/
def indices4 : List (Fin 4) := [0, 1, 2, 3]

/-! ### Seeding -/

/-- `spMix` (R250). -/
def State.spMix (s : State) : Word64 := s.reg (s.readReg.get 0) ^^^ s.reg (s.readReg.get 1)

/-- The round's `spAddr0` (R250). -/
def State.seedAddr0 (s : State) : Word32 := (s.spAddr0 ^^^ lowWord s.spMix) &&& rowMask

/-- The round's `spAddr1` (R250). -/
def State.seedAddr1 (s : State) : Word32 := (s.spAddr1 ^^^ highWord s.spMix) &&& rowMask

/-- The places seeding reads (R250, R251, R253). -/
def seedPlaces : List Location :=
  let readRegs : List Location := indices4.map Location.readReg
  let rs : List Location := indices8.map Location.r
  readRegs ++ rs ++ [.eMask .lo, .eMask .hi]

/-- The seeded registers and addresses (R250–R253). All reads see the state before the step. -/
def State.seedRegisters (s : State) : State :=
  let a0 := s.seedAddr0.toNat
  let a1 := s.seedAddr1.toNat
  { s with
    spAddr0 := s.seedAddr0
    spAddr1 := s.seedAddr1
    r := Bank8.ofFn fun k => s.reg k ^^^ s.spRead (a0 + 8 * k.val)
    f := Bank4.ofFn fun k => FReg.ofHalves (cvtPair (s.spRead (a1 + 8 * k.val)))
    e := Bank4.ofFn fun k =>
      FReg.ofHalves fun h => maskE (cvtPair (s.spRead (a1 + 8 * (4 + k.val))) h) (s.eMask h)
    seeded := true }

/-- Release the seeding barrier: every lane starts dispatching at word 0 (R255). A program with no word has no
group to dispatch (R256, R261). -/
def State.startDispatch (s : State) : State :=
  { s with
    pc := 0
    lanes := s.lanes.map fun _ => Lane.fresh 0 s.fprc
    phase := .dispatch }

/-- The seeding step (R250–R255); a read of a value never written faults and nothing is written (R413, R415). -/
def State.seedStep (s : State) : Host.Outcome State Fault Refusal :=
  match s.firstUnwritten seedPlaces with
  | some l => .next (s.raise (.unwrittenRead s.pc s.pc l))
  | none => .next s.seedRegisters.startDispatch

/-! ### Write-back -/

/-- The byte address of dataset word `k` of the round's item, as a number, so that it cannot wrap (R96). -/
def State.dsAddr (s : State) (k : Nat) : Nat := s.datasetOffset.toNat + s.ma.toNat + 8 * k

/-- The first of the eight dataset words that lies past the dataset (R96). -/
def State.dsPast (s : State) : Option Nat :=
  (indices8.map fun k => s.dsAddr k.val).find? fun a => decide (s.params.datasetSize < a + 8)

/-- The folded `mx` (R262). -/
def State.foldedMx (s : State) : Word32 :=
  (s.mx ^^^ lowWord (s.reg (s.readReg.get 2)) ^^^ lowWord (s.reg (s.readReg.get 3))) &&& datasetAlignMask

/-- The integer registers after the dataset mix (R263). -/
def State.mixedRegs (s : State) : Bank8 Word64 :=
  Bank8.ofFn fun k => s.reg k ^^^ s.dsRead (s.dsAddr k.val)

/-- Group F after the fold with group E (R265). -/
def State.foldedF (s : State) : Bank4 FReg :=
  Bank4.ofFn fun k => FReg.ofHalves fun h => (s.fReg k).half h ^^^ (s.eReg k).half h

/-- `SpWrite(spAddr1 + 8k, 8, r[k])` for `k` in 0–7 (R264). -/
def State.storeRegs (s : State) : State :=
  indices8.foldl (fun t k => t.spWrite (s.spAddr1.toNat + 8 * k.val) (s.reg k)) s

/-- `SpWrite(spAddr0 + 16k, 8, f[k].lo)` and the `hi` half 8 above, for `k` in 0–3 (R266). -/
def State.storeF (s : State) : State :=
  indices4.foldl
    (fun t k =>
      (t.spWrite (s.spAddr0.toNat + 16 * k.val) (s.fReg k).lo).spWrite (s.spAddr0.toNat + 16 * k.val + 8)
        (s.fReg k).hi)
    s

/-- Bytes 0–191 of the register region: `r`, then `f`, then `e` (R38, R270). -/
def State.finalOutput (s : State) : List Byte :=
  let words : List Word64 :=
    indices8.map s.reg ++ (indices4.map fun k => [(s.fReg k).lo, (s.fReg k).hi]).flatten
      ++ (indices4.map fun k => [(s.eReg k).lo, (s.eReg k).hi]).flatten
  (words.map fun v => (List.range 8).map (word64Byte v)).flatten

/-- The end of a round (R267), and at the end of the last batch the final output (R270). At DONE the instance
waits for the host. -/
def State.endRound (s : State) : State :=
  let finished := decide (s.numIter ≤ s.round + 1)
  { s with
    spAddr0 := 0
    spAddr1 := 0
    round := s.round + 1
    phase := if finished then .done else .seed
    agent := if finished then .host else .interpret
    output := if finished && s.last then some s.finalOutput else s.output }

/-- The places the write-back reads (R262–R266). -/
def writebackPlaces : List Location :=
  let readRegs : List Location := indices4.map Location.readReg
  let rs : List Location := indices8.map Location.r
  let fs : List Location := (indices4.map fun j => [Location.f j .lo, Location.f j .hi]).flatten
  let es : List Location := (indices4.map fun j => [Location.e j .lo, Location.e j .hi]).flatten
  [.mx, .ma, .datasetOffset] ++ readRegs ++ rs ++ fs ++ es

/-- The write-back without its checks: `mx` folds, the dataset item is mixed in at the old `ma`, the two scalars
swap, then the stores (R262–R266). -/
def State.writtenBack (s : State) : State :=
  let mixed : State := { s with r := s.mixedRegs, f := s.foldedF, ma := s.foldedMx, mx := s.ma }
  mixed.storeRegs.storeF

/-- The write-back step: its faults come before any write (R414, R415). -/
def State.writebackStep (s : State) : Host.Outcome State Fault Refusal :=
  match s.firstUnwritten writebackPlaces with
  | some l => .next (s.raise (.unwrittenRead s.pc s.pc l))
  | none =>
    match s.dsPast with
    | some a => .next (s.raise (.datasetRange s.round a))
    | none => .next s.writtenBack.endRound

/-! ### The VM-state buffer's bytes (R38, R97, R98, R452; log 20) -/

/-- The bytes of a 64-bit word, lowest address first. -/
def word64Bytes (v : Word64) : List Byte := (List.range 8).map (word64Byte v)

/-- The 256 bytes of the register region (R38). -/
def State.regionBytes (s : State) : List Byte :=
  s.finalOutput
    ++ ((indices4.map fun k => word64Bytes (s.aReg k).lo ++ word64Bytes (s.aReg k).hi).flatten)

/-- A byte of the 32-bit words from byte 0 up; none past the last. -/
def word32ListByte (l : List Word32) (off : Nat) : Option Byte :=
  (l[off / 4]?).map fun v => BitVec.ofNat 8 (v.toNat / 2 ^ (8 * (off % 4)))

/-- The control block's bytes from 2048 up; a reserved byte has no value (R98, R452). -/
def State.controlBytes (s : State) : List (Option Byte) :=
  ((word32Bytes s.ma ++ word32Bytes s.mx
      ++ indices4.map fun k => BitVec.ofNat 8 (8 * (s.readReg.get k).val)).map some)
    ++ [some (s.fprc.setWidth 8), none]
    ++ ([BitVec.ofNat 8 s.progLen, BitVec.ofNat 8 (s.progLen / 256)].map some)
    ++ ((word64Bytes s.eMask0 ++ word64Bytes s.eMask1 ++ word64Bytes s.datasetOffset
      ++ word32Bytes s.spAddr0 ++ word32Bytes s.spAddr1).map some)

/-- The byte of the VM-state buffer at an offset; none where R452 gives no value. -/
def State.vmByte (s : State) (off : Nat) : Option Byte :=
  if off < 256 then s.regionBytes[off]?
  else if off < 1024 then word32ListByte s.imm (off - 256)
  else if off < 2048 then word32ListByte s.prog (off - 1024)
  else ((s.controlBytes)[off - 2048]?).getD none

end Sys2Proof.Machine
end

