-- ==== Sys2Proof/Machine/HostLink.lean ====
section
/-! DEFINITION. The host's interactions (R425, R426, R453) and the start of a batch (R268). The host sends a queue
of interactions; the instance takes one when it is idle (log 7). Last, the duties on their order (R426, R453; log 26). -/

namespace Sys2Proof.Machine

/-- A memory the host may hand over for a buffer of `size` bytes. -/
def Memory.fits (size : Nat) (m : Memory) : Bool := m.wf && m.inside size

/-- The start of a hash: a new VM state and scratchpad; the dataset, the parameters and the host's queue stay
(R451, R453; log 23). -/
def State.startHash (s : State) (scratch : Memory) (queue : List HostCmd) : State :=
  { State.reset with
    scratch := scratch
    dataset := s.dataset
    params := s.params
    lanes := List.replicate s.params.w (Lane.fresh 0 0)
    hostQueue := queue }

/-- The start of a program's compile (R426, R453): the entropy buffer is placed and the compile engine moves next. A
new run begins, so the result of the program before is no longer this instance's (R460; log 22). What R451 gives no
value at a program start (`pc`, `phase`, `round`, `spAddr0`, `spAddr1`, the lanes' `pc` and mode, F and E) keeps what
it held: DESIGN CHOICE (log 30). -/
def State.startCompile (s : State) (entropy : Memory) : State :=
  { s with entropy := entropy, output := none, agent := .compile .decode }

/-- The start of a batch (R268, R451). R451 gives `pc` no value here: it keeps what it held, and `lane_pc` with it
(DESIGN CHOICE, log 30). -/
def State.startBatch (s : State) (numIter : Nat) (first last : Bool) : State :=
  { s with
    numIter := numIter
    first := first
    last := last
    round := 0
    phase := .seed
    spAddr0 := if first then s.mx else 0
    spAddr1 := if first then s.ma else 0
    lanes := List.replicate s.params.w (Lane.fresh s.pc s.fprc)
    seeded := false
    agent := .interpret }

/-- Take one interaction, the rest of the queue being `queue` (R426; log 7). -/
def State.takeCmd (s : State) (cmd : HostCmd) (queue : List HostCmd) : Host.Outcome State Fault Refusal :=
  match cmd with
  | .startHash scratch =>
    if scratch.fits Config.l3Size then .next (s.startHash scratch queue) else .refused .badHostMemory
  | .initScratchpad scratch =>
    if scratch.fits Config.l3Size then .next { s with scratch := scratch, hostQueue := queue }
    else .refused .badHostMemory
  | .compile entropy =>
    if entropy.fits Config.entropySize then
      .next ({ s with hostQueue := queue }.startCompile entropy)
    else .refused .badHostMemory
  | .interpret numIter first last =>
    if s.decoded = false ∨ s.prog = [] then .refused .launchBeforeCompile
    else if numIter = 0 then .refused .emptyBatch
    else .next ({ s with hostQueue := queue }.startBatch numIter first last)

/-- The host's turn: nothing to take, no step. -/
def State.hostStep (s : State) : Host.Outcome State Fault Refusal :=
  match s.hostQueue with
  | [] => .fault .awaitingHost
  | cmd :: queue => s.takeCmd cmd queue

/-! ### The host's duties on the order of its interactions (R426, R453; log 26)

A host is assumed never to break a duty: this is a premise for claims about runs, and `step` runs any queue. -/

/-- Where the host stands in R453's order of starts. -/
inductive HostStage where
  /-- no hash has been started -/
  | noHash
  /-- a hash is started and no program is under way: the generator between programs runs here -/
  | between
  /-- a compiled program is under way, `rounds` of its rounds run by the batches so far -/
  | program (rounds : Nat)
  deriving DecidableEq, Repr

/-- A program begins only between programs, the one before having had its last batch (R453 (3), (4)). -/
def HostStage.isBetween : HostStage → Bool
  | .between => true
  | .noHash | .program _ => false

/-- The scratchpad is the host's between the programs of a hash and before a program's first batch (R426, D37). -/
def HostStage.ownsScratchpad : HostStage → Bool
  | .between => true
  | .program rounds => rounds == 0
  | .noHash => false

/-- The stage one interaction leads to; none when it breaks a duty. A hash starts first of all or after a program's
last batch; a compile is done between programs; the batches of a program have `first` on the first only, `last` on
the last only, and rounds that sum to `PROGRAM_ITERATIONS` (R426, R453). -/
def HostStage.after (p : Config.Params) (stage : HostStage) : HostCmd → Option HostStage
  | .startHash scratch =>
    if (stage == .noHash || stage.isBetween) && scratch.fits Config.l3Size then some .between else none
  | .initScratchpad scratch => if stage.ownsScratchpad && scratch.fits Config.l3Size then some stage else none
  | .compile entropy => if stage.isBetween && entropy.fits Config.entropySize then some (.program 0) else none
  | .interpret n first last =>
    match stage with
    | .noHash | .between => none
    | .program rounds =>
      if decide (1 ≤ n) && decide (rounds + n ≤ p.programIterations) && (first == decide (rounds = 0))
          && (last == decide (rounds + n = p.programIterations)) then
        some (if rounds + n = p.programIterations then .between else .program (rounds + n))
      else none

/-- The stage a list of interactions leads to; none when one of them breaks a duty. -/
def HostStage.afterAll (p : Config.Params) : HostStage → List HostCmd → Option HostStage
  | stage, [] => some stage
  | stage, cmd :: rest =>
    match stage.after p cmd with
    | none => none
    | some next => HostStage.afterAll p next rest

/-- No interaction of the list breaks a duty of order (R426, R453). The list may stop short of a program's last
batch: the host may send the rest later. -/
def hostDutiful (p : Config.Params) (stage : HostStage) (cmds : List HostCmd) : Bool :=
  (stage.afterAll p cmds).isSome

/-- The list breaks no duty and ends with every program it began at its last batch (R453 (3), (5)). -/
def hostComplete (p : Config.Params) (stage : HostStage) (cmds : List HostCmd) : Bool :=
  match stage.afterAll p cmds with
  | some .noHash | some .between => true
  | some (.program _) | none => false

end Sys2Proof.Machine
end

