-- ==== Sys2Proof/Machine/Scheduler.lean ====
section
/-! DEFINITION. The compile engine's tracker and scheduler (41_scheduler, R200–R232): pass 1 resolves every CBRANCH,
pass 2 places every instruction in a cycle and appends its immediates, emission writes the compiled words. A pass
handles one raw instruction a step (log 8). -/

namespace Sys2Proof.Machine

open Sys2Proof.Config (Params)

/-! ### The compiled form of a raw instruction (R127, R128, R217, R227) -/

/-- Whether an IMUL_RCP divisor is degenerate: 0 or a power of two (R217). -/
def degenerateDivisor (d : Word32) : Bool := d == 0 || d &&& (d - 1) == 0

/-- L1 or L2 by `mod.mem` (R128). -/
def modWindow (raw : RawInstr) : Loc := if raw.modMem = 0 then .l2 else .l1

/-- The `loc` of an integer load (R128). -/
def intLoadLoc (raw : RawInstr) : Loc := if raw.src = raw.dst then .l3 else modWindow raw

/-- The `loc` of ISTORE (R128). -/
def storeLoc (raw : RawInstr) : Loc :=
  if Config.storeL3Condition ≤ raw.modCond.val then .l3 else modWindow raw

/-- A register field taken modulo 4 (R121, R127, R345). -/
def mod4 (j : Fin 8) : Fin 8 := Fin.ofNat 8 (j.val % 4)

/-- Compiled fields before placement: `immIdx`, `n` and `nf` are filled in at emission. -/
def bareFields (dst src : Fin 8) (loc : Loc) (shift : Fin 4) : Fields := ⟨dst, src, loc, 0, shift, 0, 0⟩

/-- The compiled instruction a raw one becomes; `creg` is CBRANCH's condition register (R127, R217, R227). Ignored
fields are 0, and a degenerate instruction is a NOP. -/
def lower (raw : RawInstr) (creg : Fin 8) : Instr :=
  match raw.cls with
  | .iaddRs => .iaddRs (bareFields raw.dst raw.src .file raw.modShift)
  | .iaddM => .iaddM (bareFields raw.dst raw.src (intLoadLoc raw) 0)
  | .isubR => .isubR (bareFields raw.dst raw.src .file 0)
  | .isubM => .isubM (bareFields raw.dst raw.src (intLoadLoc raw) 0)
  | .imulR => .imulR (bareFields raw.dst raw.src .file 0)
  | .imulM => .imulM (bareFields raw.dst raw.src (intLoadLoc raw) 0)
  | .imulhR => .imulhR (bareFields raw.dst raw.src .file 0)
  | .imulhM => .imulhM (bareFields raw.dst raw.src (intLoadLoc raw) 0)
  | .ismulhR => .ismulhR (bareFields raw.dst raw.src .file 0)
  | .ismulhM => .ismulhM (bareFields raw.dst raw.src (intLoadLoc raw) 0)
  | .imulRcp =>
    if degenerateDivisor raw.imm32 then .nop (bareFields 0 0 .file 0)
    else .imulRcp (bareFields raw.dst 0 .file 0)
  | .inegR => .inegR (bareFields raw.dst 0 .file 0)
  | .ixorR => .ixorR (bareFields raw.dst raw.src .file 0)
  | .ixorM => .ixorM (bareFields raw.dst raw.src (intLoadLoc raw) 0)
  | .irorR => .irorR (bareFields raw.dst raw.src .file 0)
  | .irolR => .irolR (bareFields raw.dst raw.src .file 0)
  | .iswapR =>
    if raw.src = raw.dst then .nop (bareFields 0 0 .file 0) else .iswapR (bareFields raw.dst raw.src .file 0)
  | .fswapR => .fswapR (bareFields raw.dst 0 .file 0)
  | .faddR => .faddR (bareFields (mod4 raw.dst) (mod4 raw.src) .file 0)
  | .faddM => .faddM (bareFields (mod4 raw.dst) raw.src (modWindow raw) 0)
  | .fsubR => .fsubR (bareFields (mod4 raw.dst) (mod4 raw.src) .file 0)
  | .fsubM => .fsubM (bareFields (mod4 raw.dst) raw.src (modWindow raw) 0)
  | .fscalR => .fscalR (bareFields (mod4 raw.dst) 0 .file 0)
  | .fmulR => .fmulR (bareFields (mod4 raw.dst) (mod4 raw.src) .file 0)
  | .fdivM => .fdivM (bareFields (mod4 raw.dst) raw.src (modWindow raw) 0)
  | .fsqrtR => .fsqrtR (bareFields (mod4 raw.dst) 0 .file 0)
  | .cbranch => .cbranch (bareFields creg 0 .file 0)
  | .cfround => .cfround (bareFields 0 raw.src .file 0)
  | .istore => .istore (bareFields raw.dst raw.src (storeLoc raw) 0)

/-! ### Immediate preprocessing (R217–R219, R129) -/

/-- One round of the reciprocal's long division (R218). -/
def rcpRound (d : Nat) (qr : Nat × Nat) : Nat × Nat :=
  if d - qr.2 ≤ qr.2 then (2 * qr.1 + 1, 2 * qr.2 - d) else (2 * qr.1, 2 * qr.2)

/-- `k` rounds of the long division (R218). -/
def rcpRounds (d : Nat) : Nat → Nat × Nat → Nat × Nat
  | 0, qr => qr
  | k + 1, qr => rcpRounds d k (rcpRound d qr)

/-- The reciprocal of a divisor that is not degenerate (R218). -/
def reciprocal (d : Word32) : Word64 :=
  BitVec.ofNat 64 (rcpRounds d.toNat (bitLen d.toNat) (2 ^ 63 / d.toNat, 2 ^ 63 % d.toNat)).1

/-- CBRANCH's bit position `b` (R219). -/
def cbranchBit (raw : RawInstr) : Nat := raw.modCond.val + Config.jumpOffset

/-- CBRANCH's immediate `cimm` (R219). -/
def cbranchImm (raw : RawInstr) : Word64 :=
  (raw.imm32.signExtend 64 ||| BitVec.ofNat 64 (2 ^ cbranchBit raw))
    &&& ~~~(BitVec.ofNat 64 (2 ^ (cbranchBit raw - 1)))

/-- CBRANCH's second entry: `b` and the target word index (R129, R219). -/
def cbranchEntry (b target : Nat) : Word32 := BitVec.ofNat 32 (b * 2 ^ 16 + target)

/-- The immediate entries of a raw instruction (R129). The target in CBRANCH's second entry is 0 until emission
knows it (R228; log 29). -/
def immEntries (raw : RawInstr) : List Word32 :=
  match raw.cls with
  | .iaddRs => if raw.dst = 5 then [raw.imm32] else []
  | .isubR | .imulR | .ixorR | .irorR | .irolR => if raw.src = raw.dst then [raw.imm32] else []
  | .iaddM | .isubM | .imulM | .imulhM | .ismulhM | .ixorM => [raw.imm32]
  | .faddM | .fsubM | .fdivM => [raw.imm32]
  | .istore => [raw.imm32]
  | .cfround => [raw.imm32]
  | .imulRcp =>
    if degenerateDivisor raw.imm32 then []
    else [lowWord (reciprocal raw.imm32), highWord (reciprocal raw.imm32)]
  | .cbranch => [lowWord (cbranchImm raw), cbranchEntry (cbranchBit raw) 0]
  | .imulhR | .ismulhR | .inegR | .iswapR | .fswapR | .faddR | .fsubR | .fscalR | .fmulR | .fsqrtR => []

/-! ### Pass 1 (R201–R207) -/

/-- A register's rank key without its index (R203). -/
def RegHist.key (h : RegHist) : Int × Nat := (if h.written then h.lastWrite else -1, h.usage)

/-- The first key is strictly smaller (R203). -/
def keyLess (x y : Int × Nat) : Bool := decide (x.1 < y.1) || (decide (x.1 = y.1) && decide (x.2 < y.2))

/-- The register with the smallest key among those listed, an earlier one winning a tie (R203). -/
def selectFrom (hist : Bank8 RegHist) : List (Fin 8) → Fin 8 → Fin 8
  | [], best => best
  | j :: rest, best =>
    selectFrom hist rest (if keyLess (hist.get j).key (hist.get best).key then j else best)

/-- `CREG_RULE = SELECT` (R203). -/
def selectCreg (hist : Bank8 RegHist) : Fin 8 := selectFrom hist [1, 2, 3, 4, 5, 6, 7] 0

/-- The condition register of a CBRANCH (R203, R204). -/
def cregOf (p : Params) (hist : Bank8 RegHist) (raw : RawInstr) : Fin 8 :=
  match p.cregRule with
  | .select => selectCreg hist
  | .dstField => raw.dst

/-- The raw target of a CBRANCH on register `creg` (R205). -/
def branchTargetOf (hist : Bank8 RegHist) (creg : Fin 8) : Nat :=
  if (hist.get creg).written then ((hist.get creg).lastWrite + 1).toNat else 0

/-- The integer registers an instruction other than CBRANCH meaningfully changes: `WI` (R201) is the integer part
of `WS`. -/
def integerWrites (i : Instr) (j : Fin 8) : Bool := (writeSet i).contains (.r j)

/-- Record a write at raw index `i` (R202). -/
def RegHist.wroteAt (h : RegHist) (i : Nat) : RegHist := { h with lastWrite := i, written := true }

/-- One more selection by a CBRANCH (R203). -/
def RegHist.used (h : RegHist) : RegHist := { h with usage := h.usage + 1 }

/-- Pass 1 on raw instruction `i` (R202–R207). -/
def Compiler.pass1 (p : Params) (i : Nat) (raw : RawInstr) (c : Compiler) : Compiler :=
  if raw.cls = .cbranch then
    let creg := cregOf p c.hist raw
    let hist :=
      match p.cregRule with
      | .select => c.hist.set creg (c.hist.get creg).used
      | .dstField => c.hist
    { c with
      branches := ⟨i, creg, branchTargetOf c.hist creg⟩ :: c.branches
      hist := Bank8.ofFn fun j => (hist.get j).wroteAt i }
  else
    { c with
      hist := Bank8.ofFn fun j =>
        if integerWrites (lower raw 0) j then (c.hist.get j).wroteAt i else c.hist.get j }

/-! ### Pass 2 (R208–R225) -/

/-- The condition register pass 1 chose for the CBRANCH at `i`. -/
def Compiler.cregAt (c : Compiler) (i : Nat) : Fin 8 :=
  match c.branches.find? fun b => b.idx == i with
  | some b => b.creg
  | none => 0

/-- Raw instruction `i` is a branch target (R205). -/
def Compiler.isTarget (c : Compiler) (i : Nat) : Bool := c.branches.any fun b => b.target == i

/-- A resource's entry. -/
def ResTable.get (t : ResTable) : Resource → Nat
  | .r j => t.r.get j
  | .f j => t.f.get j
  | .e j => t.e.get j
  | .fprc => t.fprc
  | .mem => t.mem

/-- Set a resource's entry. -/
def ResTable.set (t : ResTable) (x : Resource) (v : Nat) : ResTable :=
  match x with
  | .r j => { t with r := t.r.set j v }
  | .f j => { t with f := t.f.set j v }
  | .e j => { t with e := t.e.set j v }
  | .fprc => { t with fprc := v }
  | .mem => { t with mem := v }

/-- Raise a resource's entry to at least `v`. -/
def ResTable.raiseTo (t : ResTable) (v : Nat) (x : Resource) : ResTable := t.set x (max (t.get x) v)

/-- `wAvail[x]` (R221); for `MEM` the later of the two scratchpad chains (R58). -/
def Compiler.availAt (c : Compiler) (x : Resource) : Nat :=
  match x with
  | .mem => max c.wAvail.mem c.memAvailHigh
  | .r j => c.wAvail.get (.r j)
  | .f j => c.wAvail.get (.f j)
  | .e j => c.wAvail.get (.e j)
  | .fprc => c.wAvail.get .fprc

/-- Whether an instruction's store is of the high latency class (R221). -/
def highStore (i : Instr) : Bool := i.locKind == .store && i.fields.loc == .l3

/-- The write latency (R221). -/
def writeLatency (p : Params) (i : Instr) : Nat :=
  if i.isFloat then p.latFp
  else if i.locKind == .store then (if i.fields.loc == .l3 then p.latMemHigh else p.latMem)
  else p.latInt

/-- Lanes an instruction needs (R209). -/
def laneNeed (w : Nat) (i : Instr) : Nat := if i.isFloat && decide (2 ≤ w) then 2 else 1

/-- The largest of a list of numbers, 0 if it is empty. -/
def maxList (l : List Nat) : Nat := l.foldl max 0

/-- The earliest legal cycle of the instruction `i` compiles to at raw index `k` (R222). -/
def Compiler.earliest (c : Compiler) (k : Nat) (i : Instr) : Nat :=
  let ready := maxList ((readSet i ++ writeSet i).map c.availAt)
  let free := maxList ((writeSet i).map c.rFree.get)
  let afterAll := if c.isTarget k then (c.lastUsedCycle + 1).toNat else 0
  let atLast := match i with
    | .cbranch _ => c.lastUsedCycle.toNat
    | _ => 0
  max (max (max c.cutFloor ready) (max free afterAll)) atLast

/-- `used[c]` (R59). -/
def usedAt (used : List (Nat × Nat)) (cyc : Nat) : Nat :=
  match used.find? fun e => e.1 == cyc with
  | some e => e.2
  | none => 0

/-- Add lanes to a cycle (R224). -/
def addUsed (used : List (Nat × Nat)) (cyc need : Nat) : List (Nat × Nat) :=
  (cyc, usedAt used cyc + need) :: used.filter fun e => e.1 != cyc

/-- The first cycle from `cyc` up, `fuel` of them, with room for `need` lanes (R223). -/
def findCycle (w : Nat) (used : List (Nat × Nat)) (need : Nat) : Nat → Nat → Option Nat
  | 0, _ => none
  | fuel + 1, cyc => if usedAt used cyc + need ≤ w then some cyc else findCycle w used need fuel (cyc + 1)

/-- The update after placing instruction `i`, raw index `k`, at a cycle (R224). -/
def Compiler.place (p : Params) (c : Compiler) (k : Nat) (i : Instr) (cyc immIdx : Nat) : Compiler :=
  let readable := cyc + writeLatency p i
  let written :=
    if highStore i then c.wAvail else (writeSet i).foldl (fun t x => t.raiseTo readable x) c.wAvail
  let high := if highStore i then max c.memAvailHigh readable else c.memAvailHigh
  let branch := match i with
    | .cbranch _ => true
    | _ => false
  let floor := if branch then cyc + 1 else c.cutFloor
  { c with
    wAvail := if branch then Resource.all.foldl (fun t x => t.raiseTo (cyc + 1) x) written else written
    memAvailHigh := if branch then max high (cyc + 1) else high
    rFree := (readSet i).foldl (fun t x => t.raiseTo (cyc + 1) x) c.rFree
    cutFloor := if c.isTarget k then max floor cyc else floor
    lastUsedCycle := max c.lastUsedCycle cyc
    used := addUsed c.used cyc (laneNeed p.w i)
    placed := c.placed ++ [⟨cyc, immIdx⟩]
    occupied := c.occupied + laneNeed p.w i }

/-- Pass 2 on raw instruction `k` (R220–R224): its immediates are appended, then it is placed; the faults come in
R414's order. The answer is the compile engine and the immediate buffer after it. -/
def Compiler.pass2 (p : Params) (c : Compiler) (imm : List Word32) (k : Nat) (raw : RawInstr) :
    Except FaultRecord (Compiler × List Word32) :=
  let entries := immEntries raw
  if Config.immCap < imm.length + entries.length then .error (.immOverflow k)
  else
    let i := lower raw (c.cregAt k)
    match findCycle p.w c.used (laneNeed p.w i) (Config.fpSearchCap + 1) (c.earliest k i) with
    | none => .error (.schedExhausted k)
    | some cyc => .ok (c.place p k i cyc (if entries.isEmpty then 0 else imm.length), imm ++ entries)

/-! ### Emission (R226–R230) -/

/-- A placed instruction on its way to emission. -/
structure Emitted where
  /-- raw index -/
  idx : Nat
  instr : Instr
  cycle : Nat
  deriving DecidableEq, Repr

/-- `x` is emitted before `y`: by cycle, then floating first, then program order (R226). -/
def emittedBefore (x y : Emitted) : Bool :=
  decide (x.cycle < y.cycle)
    || (decide (x.cycle = y.cycle)
      && ((x.instr.isFloat && !y.instr.isFloat)
        || ((x.instr.isFloat == y.instr.isFloat) && decide (x.idx < y.idx))))

/-- Insert in emission order. -/
def insertEmitted (x : Emitted) : List Emitted → List Emitted
  | [] => [x]
  | y :: rest => if emittedBefore x y then x :: y :: rest else y :: insertEmitted x rest

/-- Sort into emission order (R226). -/
def sortEmitted : List Emitted → List Emitted
  | [] => []
  | x :: rest => insertEmitted x (sortEmitted rest)

/-- The placed instructions in raw order, from raw index `k` up, each as the compiled instruction it becomes. A raw
word without a class ends the list; `Params.ok` excludes it. -/
def State.toEmit (s : State) : Nat → List Placed → List Emitted
  | _, [] => []
  | k, q :: rest =>
    match s.rawInstr k with
    | none => []
    | some raw =>
      let i := lower raw (s.compiler.cregAt k)
      ⟨k, i.withFields { i.fields with immIdx := Fin.ofNat 256 q.immIdx }, q.cycle⟩ :: s.toEmit (k + 1) rest

/-- The word of an instruction in its group: `n` and `nf` are the group's counts (R131, R226, R227). -/
def emitWord (all : List Emitted) (x : Emitted) : Word32 :=
  let group := all.filter fun y => y.cycle == x.cycle
  encodeWord
    (x.instr.withFields
      { x.instr.fields with
        n := Fin.ofNat 16 group.length
        nf := Fin.ofNat 8 (group.filter fun y => y.instr.isFloat).length })

/-- The index of the first word of a cycle's group in the emitted list (R228). -/
def firstWordOf (all : List Emitted) (cycle : Nat) : Nat := all.findIdx fun y => y.cycle == cycle

/-- The cycle of raw instruction `k` (R210). -/
def Compiler.cycleOf (c : Compiler) (k : Nat) : Nat := ((c.placed[k]?).map (·.cycle)).getD 0

/-- Write a branch's target word index into its second entry (R228). -/
def patchTarget (c : Compiler) (all : List Emitted) (imm : List Word32) (b : Branch) : List Word32 :=
  match c.placed[b.idx]? with
  | none => imm
  | some q => imm.modify (q.immIdx + 1) fun v => v + BitVec.ofNat 32 (firstWordOf all (c.cycleOf b.target))

/-- Emission (R226–R230): the words, and the immediates with the branch targets filled in; PROG_OVERFLOW names the
first raw instruction past the capacity (R229). -/
def State.emitProgram (s : State) : Except FaultRecord (List Word32 × List Word32) :=
  let all := sortEmitted (s.toEmit 0 s.compiler.placed)
  if Config.progCap < all.length then .error (.progOverflow Config.progCap)
  else .ok (all.map (emitWord all), s.compiler.branches.foldl (patchTarget s.compiler all) s.imm)

/-! ### Steps of the compile engine -/

/-- The position after raw instruction `i` of a pass, or `next` at the pass's end (R8 `PROGRAM_SIZE`). -/
def stageAfter (i : Nat) (same : Nat → CompileStage) (next : CompileStage) : CompileStage :=
  if i + 1 < Config.programSize then same (i + 1) else next

/-- One step of the compile engine (R200, R232; log 8). -/
def State.compileStep (s : State) (stage : CompileStage) : Host.Outcome State Fault Refusal :=
  match stage with
  | .decode => .next { s.decodeSeeds with compiler := .initial, imm := [], prog := [], agent := .compile (.pass1 0) }
  | .pass1 i =>
    match s.rawInstr i with
    | none => .refused .badConfiguration
    | some raw =>
      .next
        { s with
          compiler := s.compiler.pass1 s.params i raw
          agent := .compile (stageAfter i .pass1 (.pass2 0)) }
  | .pass2 i =>
    match s.rawInstr i with
    | none => .refused .badConfiguration
    | some raw =>
      match s.compiler.pass2 s.params s.imm i raw with
      | .error rec => .next (s.raise rec)
      | .ok (c, imm) =>
        .next { s with compiler := c, imm := imm, agent := .compile (stageAfter i .pass2 .emit) }
  | .emit =>
    match s.emitProgram with
    | .error rec => .next (s.raise rec)
    | .ok (prog, imm) => .next { s with prog := prog, imm := imm, agent := .host }

/-! ### The tracker's and scheduler's other names (R58, R59, R231; log 9) -/

/-- `lastAccess[x]`: the last cycle in which an instruction read `x`; 0 before any (R58). -/
def Compiler.lastAccess (c : Compiler) (x : Resource) : Nat := c.rFree.get x - 1

/-- `fill`: the lowest cycle not yet closed to new instructions (R59). -/
def Compiler.fill (c : Compiler) : Nat := c.cutFloor

/-- `cfroundFloor`: the first cycle a CFROUND may use (R59), from the terms of R222 on `FPRC`. -/
def Compiler.cfroundFloor (c : Compiler) : Nat := max c.cutFloor (max (c.availAt .fprc) (c.rFree.get .fprc))

/-- The number of instructions scheduled (R59, R231). -/
def Compiler.scheduledCount (c : Compiler) : Nat := c.placed.length

/-- The slot of the program's first instruction, as its cycle (R231). -/
def Compiler.firstSlot (c : Compiler) : Nat := c.cycleOf 0

end Sys2Proof.Machine
end

