-- ==== Sys2Proof/Machine/Loader.lean ====
section
/-! DEFINITION. One step of the instance by agent and phase (R269), and the placement of a loaded word where the next
step fetches (log 27). Step.lean names both. -/

namespace Sys2Proof.Machine

/-- The interpreter's step by phase (R269). DONE has no successor of its own: the host moves next. -/
def State.interpretStep (s : State) : Host.Outcome State Fault Refusal :=
  match s.phase with
  | .seed => s.seedStep
  | .dispatch => s.dispatchStep
  | .writeback => s.writebackStep
  | .done => s.hostStep

/-- One step of a running instance by agent (R429). -/
def State.agentStep (s : State) : Host.Outcome State Fault Refusal :=
  match s.agent with
  | .host => s.hostStep
  | .compile stage => s.compileStep stage
  | .interpret => s.interpretStep

/-- The word of a NOP that heads, or stands in, a group of `n` words (R125, R320). -/
def nopWord (n : Nat) : Word32 := encodeWord (.nop ⟨0, 0, .file, 0, 0, Fin.ofNat 16 n, 0⟩)

/-- The program a loaded word stands in: if its counts make it the head of a legal group, a group of its own size
filled up with NOPs; else the second word of a group of two that a NOP heads, since `n` and `nf` are read only from
a group's first word (R131); with one lane no group has two words, and the word stands alone. -/
def loaderProgram (w : Nat) (word : Word32) : List Word32 :=
  let n := bitField word.toNat 23 4
  let nf := bitField word.toNat 27 3
  if groupCountsLegal w n nf then word :: List.replicate (n - 1) (nopWord n)
  else if w = 1 then [word]
  else [nopWord 2, word]

/-- The immediate buffer a loaded word comes with: every entry the least second entry R381 lets a CBRANCH have
(`b` = 8, target word 0), so that an instruction of any class finds its entries written (log 27). -/
def loaderImm : List Word32 := List.replicate Config.immCap (cbranchEntry Config.jumpOffset 0)

/-- The state with a loaded program in place of a compile and a seeding: dispatching starts at word 0. -/
def State.loadWord (s : State) (word : Word32) : State :=
  { s with
    prog := loaderProgram s.params.w word
    imm := loaderImm
    pc := 0
    phase := .dispatch
    agent := .interpret
    decoded := true
    seeded := true }

end Sys2Proof.Machine
end

