-- ==== Sys2Proof/Machine/Step.lean ====
section
/-! DEFINITION. One step of the machine. -/

namespace Sys2Proof.Machine

/-- One step: a configuration outside the parameters' ranges is refused before any step (R9); a faulted instance
takes none (R410); otherwise the agent whose turn it is moves (R269, R426, R429). -/
def step (s : State) : Host.Outcome State Fault Refusal :=
  if s.params.ok then
    match s.fault with
    | some _ => .fault .instanceStopped
    | none => s.agentStep
  else .refused .badConfiguration

/-- The state with an instruction's bits placed where the next step fetches (log 27). The core fetches words of 32
bits; bits above `nbits` are 0. -/
def State.withFetchWord (s : State) (nbits w : Nat) : State := s.loadWord (BitVec.ofNat 32 (w % 2 ^ nbits))

end Sys2Proof.Machine
end

