-- ==== Sys2Proof/Machine/Run.lean ====
section
/-! DEFINITION. Runs of many steps: when a run is over (R460), runs with a fuel bound that end as not finished when it
runs out, and the premise that every round's dispatching ends (R382, R428, R458). -/

namespace Sys2Proof.Machine

/-- A faulted instance (R410, U12). -/
def State.isStopped (s : State) : Bool := s.fault.isSome

/-- The run of the current program is over: DONE after its batch with `last` = 1, no fault, and the result handed over
(R270, R460). The next program's compile takes the result away (`State.startCompile`), so a program that has not run
is never over. -/
def State.runOver (s : State) : Bool :=
  decide (s.phase = .done) && s.last && decide (s.fault = none) && s.output.isSome

/-- The state after `k` steps; none when one of them is no next state. -/
def State.stepN : Nat → State → Option State
  | 0, s => some s
  | k + 1, s =>
    match step s with
    | .next t => State.stepN k t
    | .fault _ => none
    | .refused _ => none

/-- The state after `k` steps that all dispatch: each begins with the interpreter in DISPATCH (R269). -/
def State.groupsN : Nat → State → Option State
  | 0, s => some s
  | k + 1, s =>
    if s.agent = .interpret ∧ s.phase = .dispatch then
      match step s with
      | .next t => State.groupsN k t
      | .fault _ => none
      | .refused _ => none
    else none

/-- The dispatching that goes on at this state reaches `pc = prog_len`, or a fault, after finitely many groups. -/
def State.DispatchEnds (s : State) : Prop :=
  ∃ (k : Nat) (t : State), s.groupsN k = some t ∧ (t.fault ≠ none ∨ t.pc = t.progLen)

/-- The premise of every termination claim: from this state on, each round's dispatching ends (R428, R458). The rules
do not give it, since nothing bounds how often a CBRANCH is taken (R382). -/
def State.RoundsTerminate (s : State) : Prop :=
  ∀ (k : Nat) (t : State), s.stepN k = some t → t.agent = .interpret → t.phase = .dispatch → t.DispatchEnds

/-- How a run with a fuel bound ends (R458, R460). -/
inductive RunEnd where
  /-- the run is over -/
  | over (t : State)
  /-- no step is possible: a faulted instance, or one that waits for its host; not over -/
  | stopped (t : State) (why : Fault)
  /-- the model gives the next step no meaning; not over -/
  | refused (t : State) (why : Refusal)
  /-- the fuel ran out: not finished -/
  | notFinished (t : State)
  deriving DecidableEq, Repr

/-- Run until the run is over, with at most `fuel` steps (R458). -/
def State.runFor : Nat → State → RunEnd
  | 0, s => if s.runOver then .over s else .notFinished s
  | fuel + 1, s =>
    if s.runOver then .over s
    else
      match step s with
      | .next t => State.runFor fuel t
      | .fault why => .stopped s why
      | .refused why => .refused s why

end Sys2Proof.Machine
end

