-- ==== Sys2Proof/Safety.lean ====
section
/-! DEFINITION. What claims about the machine speak of: the frames of the instructions, the invariants, the value of a binary64
pattern, when a placement is a legal schedule (R211–R215), and what the compile engine has written so far. -/

namespace Sys2Proof.Machine

open Sys2Proof.Config (Params)

/-! ### Frames -/

/-- Every scratchpad byte reads as before. -/
def SameBytes (s t : State) : Prop := ∀ b : Nat, t.scratch.read b = s.scratch.read b

/-- Only `r[d]` may differ: no other integer register, no other field, no byte. -/
def OnlyReg (d : Fin 8) (s t : State) : Prop :=
  (∀ j : Fin 8, j ≠ d → t.reg j = s.reg j) ∧ t = { s with r := t.r } ∧ SameBytes s t

/-- Only `f[d]` may differ. -/
def OnlyFReg (d : Fin 4) (s t : State) : Prop :=
  (∀ j : Fin 4, j ≠ d → t.fReg j = s.fReg j) ∧ t = { s with f := t.f } ∧ SameBytes s t

/-- Only `e[d]` may differ. -/
def OnlyEReg (d : Fin 4) (s t : State) : Prop :=
  (∀ j : Fin 4, j ≠ d → t.eReg j = s.eReg j) ∧ t = { s with e := t.e } ∧ SameBytes s t

/-- Only the eight scratchpad bytes from `a` up may differ. -/
def OnlyBytes (a : Nat) (s t : State) : Prop :=
  (∀ b : Nat, b < a ∨ a + 8 ≤ b → t.scratch.read b = s.scratch.read b) ∧ t = { s with scratch := t.scratch }

/-- Two states agree on a resource of the hazard rules (R208). -/
def SameResource (x : Resource) (s t : State) : Prop :=
  match x with
  | .r j => t.reg j = s.reg j
  | .f j => t.fReg j = s.fReg j
  | .e j => t.eReg j = s.eReg j
  | .fprc => t.fprc = s.fprc
  | .mem => t.scratch = s.scratch

/-- Only the fault record may differ (R415). -/
def OnlyFault (s t : State) : Prop := t = { s with fault := t.fault }

/-- The word carries compiled opcode `k`, the number of its raw class (R125, R126). -/
def EncodedAs (i : Instr) (k : Nat) (c : RawClass) : Prop :=
  bitField (encodeWord i).toNat 18 5 = k ∧ RawClass.all[k]? = some c

/-- Executing `i` raises UNWRITTEN_READ for immediate entry `k` (R300, R413). -/
def RaisesUnwrittenImm (i : Instr) (s : State) (k : Nat) : Prop :=
  exec i s = .next (s.raise (.unwrittenRead s.pc s.issue.word (.imm k)))

/-- Executing `i` writes `v` to `r[d]` and changes nothing else. -/
def CompletesReg (i : Instr) (d : Fin 8) (v : Word64) (s : State) : Prop :=
  ∃ t, exec i s = .next t ∧ t.reg d = v ∧ OnlyReg d s t

/-- Executing `i` writes the halves `v` to `f[d]` and changes nothing else. -/
def CompletesFReg (i : Instr) (d : Fin 4) (v : Half → Word64) (s : State) : Prop :=
  ∃ t, exec i s = .next t ∧ (∀ h : Half, (t.fReg d).half h = v h) ∧ OnlyFReg d s t

/-- Executing `i` writes the halves `v` to `e[d]` and changes nothing else. -/
def CompletesEReg (i : Instr) (d : Fin 4) (v : Half → Word64) (s : State) : Prop :=
  ∃ t, exec i s = .next t ∧ (∀ h : Half, (t.eReg d).half h = v h) ∧ OnlyEReg d s t

/-- Executing `i` raises BAD_WORD for its own word (R132). -/
def RaisesBadWord (i : Instr) (s : State) : Prop :=
  exec i s = .next (s.raise (.badWord s.pc s.issue.word (encodeWord i)))

/-- Every lane rounds in the direction of `fprc` (R53). -/
def UniformMode (s : State) : Prop := ∀ l ∈ s.lanes, l.fprc = s.fprc

/-- What executing an instruction can change: the integer registers, groups F and E, the scratchpad, the lanes'
requests, or the fault record (R421). -/
def InstructionFrame (s t : State) : Prop :=
  t = { s with r := t.r, f := t.f, e := t.e, scratch := t.scratch, lanes := t.lanes, fault := t.fault }

/-- The six integer loads with the fields `w` (R302). -/
def integerLoads (w : Fields) : List Instr :=
  [.iaddM w, .isubM w, .imulM w, .imulhM w, .ismulhM w, .ixorM w]

/-- The three floating loads with the fields `w` (R343). -/
def floatingLoads (w : Fields) : List Instr := [.faddM w, .fsubM w, .fdivM w]

/-- The state in which a word is executed inside a group (R257). -/
def State.withIssue (s : State) (u : Issue) : State := { s with issue := u }

/-! ### Invariants -/

/-- The memories are in canonical form and inside their buffers (R81–R83). -/
structure MemoryInv (s : State) : Prop where
  scratch : s.scratch.fits Config.l3Size = true
  entropy : s.entropy.fits Config.entropySize = true
  dataset : s.dataset.wf = true

/-- `ma` is a cache-line-aligned offset below 2 GiB (R39, R96), the dataset offset a multiple of 64 within the extra
items (R43, R178), and each selector names one of its two registers (R41). -/
structure AddressInv (s : State) : Prop where
  maAligned : s.ma.toNat % 64 = 0
  maBelow : s.ma.toNat < 2 ^ 31
  offsetAligned : s.datasetOffset.toNat % 64 = 0
  offsetBelow : s.datasetOffset.toNat ≤ 64 * s.params.datasetExtraItems
  selectors : ∀ k : Fin 4, (s.readReg.get k).val = 2 * k.val ∨ (s.readReg.get k).val = 2 * k.val + 1

/-- The interpreter is dispatching or about to write back. -/
def State.inRound (s : State) : Prop := s.agent = .interpret ∧ (s.phase = .dispatch ∨ s.phase = .writeback)

/-- Between groups every lane agrees with the instance and requests nothing (R53), `pc` is in range (R48, R412), and
no word is being executed. -/
structure LaneInv (s : State) : Prop where
  lanes : s.lanes = List.replicate s.params.w (Lane.fresh s.pc s.fprc)
  pcRange : s.inRound → s.pc ≤ s.progLen
  idle : s.issue = ⟨0, 0, false⟩

/-- While the interpreter runs a batch, the program is decoded and compiled, the round counter is below `NUM_ITER`
(R50), the phase is not DONE, and after seeding F and E have values (R37) and the round's two scratchpad addresses
are rows of the scratchpad (R51, R250). -/
structure BatchInv (s : State) : Prop where
  decoded : s.agent = .interpret → s.decoded = true
  program : s.agent = .interpret → s.prog ≠ []
  round : s.agent = .interpret → s.round < s.numIter
  phase : s.agent = .interpret → s.phase ≠ .done
  seeded : s.inRound → s.seeded = true
  addr0 : s.inRound → s.spAddr0.toNat % 64 = 0 ∧ s.spAddr0.toNat < Config.l3Size
  addr1 : s.inRound → s.spAddr1.toNat % 64 = 0 ∧ s.spAddr1.toNat < Config.l3Size

/-- The bit structure R42 gives an exponent mask: bit 63 and bits [51:22] are 0, bits [62:52] are `0x300 | (t << 4)`. -/
def isExponentMask (m : Word64) : Bool :=
  bitField m.toNat 63 1 == 0 && bitField m.toNat 60 3 == 3 && bitField m.toNat 52 4 == 0
    && bitField m.toNat 22 30 == 0

/-- A positive normal binary64 in [1, 2^32) (R173). -/
def isSmallPositive (x : Word64) : Bool := decide (0x3FF0000000000000 ≤ x.toNat) && decide (x.toNat < 0x41F0000000000000)

/-- A pattern that is neither negative nor a NaN. -/
def isNonNegative (x : Word64) : Bool := decide (x.toNat ≤ fpInfBits)

/-- Group E never holds a negative number or a NaN (D24), with what that rests on: the shape of the exponent masks
(R42) and of group A (R173). -/
structure GroupEInv (s : State) : Prop where
  masks : ∀ h : Half, isExponentMask (s.eMask h) = true
  groupA : ∀ (k : Fin 4) (h : Half), isSmallPositive ((s.aReg k).half h) = true
  groupE : ∀ (k : Fin 4) (h : Half), isNonNegative ((s.eReg k).half h) = true

/-- The capacities of the immediate buffer and the compiled program (R8, R46, R47). -/
structure CapacityInv (s : State) : Prop where
  imm : s.imm.length ≤ Config.immCap
  prog : s.prog.length ≤ Config.progCap

/-! ### Illegal words (R132) -/

/-- A word whose bits R132 calls illegal wherever it stands in a group: reserved bits, a reserved opcode, a `loc`
that disagrees with R128 and R302, or bit 2 of a floating register field that names one of four. -/
def IllegalBits (word : Word32) : Prop :=
  let op := bitField word.toNat 18 5
  let loc := bitField word.toNat 6 2
  let dst := bitField word.toNat 0 3
  let src := bitField word.toNat 3 3
  bitField word.toNat 30 2 ≠ 0 ∨ op = 30 ∨ op = 31 ∨
    (op ∈ [1, 3, 5, 7, 9, 13] ∧ (loc = 0 ∨ ¬(loc = 3 ↔ src = dst))) ∨
    (op ∈ [19, 21, 24] ∧ (loc = 0 ∨ loc = 3)) ∨
    (op = 28 ∧ loc = 0) ∨
    (op ∉ [1, 3, 5, 7, 9, 13, 19, 21, 24, 28] ∧ loc ≠ 0) ∨
    (18 ≤ op ∧ op ≤ 25 ∧ 4 ≤ dst) ∨
    (op ∈ [18, 20, 23] ∧ 4 ≤ src)

/-- A word whose counts R132 calls illegal in a group's first word under `W` lanes. -/
def IllegalCounts (w : Nat) (word : Word32) : Prop :=
  let n := bitField word.toNat 23 4
  let nf := bitField word.toNat 27 3
  n = 0 ∨ w < n ∨ n < nf ∨ w < lanesNeeded w n nf

/-- A running instance about to dispatch the group at `pc` (R256). -/
structure Dispatching (s : State) : Prop where
  params : s.params.ok = true
  fault : s.fault = none
  agent : s.agent = .interpret
  phase : s.phase = .dispatch
  inside : s.pc < s.progLen

/-! ### The value of a binary64 pattern -/

/-- The rational value of a finite pattern; none for an infinity or a NaN. -/
def fpRat (x : Word64) : Option ℚ :=
  match fpDecode x with
  | .fin neg m g => some ((if neg then -1 else 1) * (m : ℚ) * (2 : ℚ) ^ g)
  | .inf _ => none
  | .nan => none

/-- `z` is `q` rounded toward −∞: the largest finite number not above `q`, or −∞ below them all (R340). -/
def RoundedDown (q : ℚ) (z : Word64) : Prop :=
  (∃ v, fpRat z = some v ∧ v ≤ q ∧ ∀ x u, fpRat x = some u → u ≤ q → u ≤ v) ∨
  (fpDecode z = .inf true ∧ ∀ x u, fpRat x = some u → q < u)

/-- `z` is `q` rounded toward +∞: the smallest finite number not below `q`, or +∞ above them all (R340). -/
def RoundedUp (q : ℚ) (z : Word64) : Prop :=
  (∃ v, fpRat z = some v ∧ q ≤ v ∧ ∀ x u, fpRat x = some u → q ≤ u → v ≤ u) ∨
  (fpDecode z = .inf false ∧ ∀ x u, fpRat x = some u → u < q)

/-- `z` is `q` rounded toward zero: the finite number nearest to `q` among those between 0 and `q` (R340). -/
def RoundedToZero (q : ℚ) (z : Word64) : Prop :=
  ∃ v, fpRat z = some v ∧ |v| ≤ |q| ∧ 0 ≤ v * q ∧ ∀ x u, fpRat x = some u → |u| ≤ |q| → |u| ≤ |v|

/-- Half way from the largest finite number to the power of two past it: from here on a magnitude rounds to infinity
(R340, IEEE 754). -/
def overflowBound : ℚ := 2 ^ 1024 - 2 ^ 970

/-- `z` is `q` rounded to nearest, ties to even: no finite number is nearer, and one as near and different means that
`z` is the one whose last bit is 0; past the overflow bound it is the infinity of `q`'s sign (R340). -/
def RoundedNearest (q : ℚ) (z : Word64) : Prop :=
  (|q| < overflowBound ∧ ∃ v, fpRat z = some v ∧ ∀ x u, fpRat x = some u →
    |v - q| ≤ |u - q| ∧ (|v - q| = |u - q| → u ≠ v → z.toNat % 2 = 0)) ∨
  (overflowBound ≤ |q| ∧ fpDecode z = .inf (decide (q < 0)))

/-- `z` is `q` rounded in a direction (R44, R340). -/
def Rounded (mode : Config.RoundMode) (q : ℚ) (z : Word64) : Prop :=
  match mode with
  | .nearestEven => RoundedNearest q z
  | .down => RoundedDown q z
  | .up => RoundedUp q z
  | .zero => RoundedToZero q z

/-- `z` is the square root of `a` rounded in a direction (R340, R354), `0 ≤ a`, said by squares: toward −∞ and toward
zero the largest finite number whose square is not above `a`, toward +∞ the smallest whose square is not below it, and
to nearest the one that no other finite number is nearer to the root than, a tie going to the even one: a number on
the other side of the midpoint `m` is not nearer exactly when `m * m` lies on that side of `a`. -/
def RootRounded (mode : Config.RoundMode) (a : ℚ) (z : Word64) : Prop :=
  ∃ v, fpRat z = some v ∧ 0 ≤ v ∧
    match mode with
    | .down | .zero => v * v ≤ a ∧ ∀ x u, fpRat x = some u → 0 ≤ u → u * u ≤ a → u ≤ v
    | .up => a ≤ v * v ∧ ∀ x u, fpRat x = some u → 0 ≤ u → a ≤ u * u → v ≤ u
    | .nearestEven =>
      ∀ x u, fpRat x = some u → 0 ≤ u →
        let m := (u + v) / 2
        (u < v → m * m ≤ a) ∧ (v < u → a ≤ m * m) ∧ (u ≠ v → m * m = a → z.toNat % 2 = 0)

/-- A pattern that is some NaN (R340 leaves open which, log 2). -/
def IsNaN (z : Word64) : Prop := fpDecode z = .nan

/-- The zero with this sign. -/
def zeroPattern (neg : Bool) : Word64 := if neg then 0x8000000000000000 else 0

/-- The infinity with this sign. -/
def infPattern (neg : Bool) : Word64 := if neg then 0xFFF0000000000000 else 0x7FF0000000000000

/-- The sign bit of a pattern. -/
def signOf (x : Word64) : Bool := x.getLsbD 63

/-! ### Pass 1 over a program (R200–R207) -/

/-- The compile engine after pass 1 has examined the first `k` raw instructions (R202). -/
def passOneAfter (p : Params) (raws : List RawInstr) : Nat → Compiler
  | 0 => .initial
  | k + 1 =>
    match raws[k]? with
    | some raw => (passOneAfter p raws k).pass1 p k raw
    | none => passOneAfter p raws k

/-- `r[j]` is changed by a raw instruction (R201, R207). -/
def RawWrites (raw : RawInstr) (j : Fin 8) : Prop := raw.cls = .cbranch ∨ integerWrites (lower raw 0) j = true

/-! ### Legal placements (R211, R213, R214) -/

/-- Raw instructions placed so far, as compiled instructions in raw order, and their cycles: every conflicting pair
is in strictly rising cycles (R214). -/
def HazardFree (instrs : List Instr) (placed : List Placed) : Prop :=
  ∀ (i j : Nat) (a b : Instr) (p q : Placed), i < j → instrs[i]? = some a → instrs[j]? = some b →
    placed[i]? = some p → placed[j]? = some q → conflicts a b = true → p.cycle < q.cycle

/-- Every cycle's lanes sum to at most `W` (R213). -/
def WithinCapacity (w : Nat) (used : List (Nat × Nat)) : Prop := ∀ cyc : Nat, usedAt used cyc ≤ w

/-- What the tracker's figures must bound for the placements to stay legal: one past the cycle of every placed
write and read of a resource (R221, R225). -/
structure TrackerInv (instrs : List Instr) (c : Compiler) : Prop where
  sameLength : instrs.length = c.placed.length
  writes : ∀ (i : Nat) (a : Instr) (p : Placed) (x : Resource), instrs[i]? = some a → c.placed[i]? = some p →
    x ∈ writeSet a → p.cycle < c.availAt x
  reads : ∀ (i : Nat) (a : Instr) (p : Placed) (x : Resource), instrs[i]? = some a → c.placed[i]? = some p →
    x ∈ readSet a → p.cycle < c.rFree.get x
  hazards : HazardFree instrs c.placed

/-- The lanes the instructions placed in a cycle need (R209, R213). -/
def lanesPlaced (w : Nat) (instrs : List Instr) (placed : List Placed) (cyc : Nat) : Nat :=
  (((instrs.zip placed).filter fun e => e.2.cycle == cyc).map fun e => laneNeed w e.1).sum

/-- The lanes of a cycle are counted right and fit in `W` (R213). -/
structure LanesInv (w : Nat) (instrs : List Instr) (c : Compiler) : Prop where
  counted : ∀ cyc : Nat, usedAt c.used cyc = lanesPlaced w instrs c.placed cyc
  capacity : WithinCapacity w c.used

/-- The branch cuts (R211): nothing before a CBRANCH is later than it and everything after is strictly later;
everything before a branch target is strictly earlier and nothing after it is earlier. The first three fields are
what the tracker's floors must bound. -/
structure CutInv (instrs : List Instr) (c : Compiler) : Prop where
  last : ∀ p ∈ c.placed, (p.cycle : Int) ≤ c.lastUsedCycle
  branchFloor : ∀ (i : Nat) (w : Fields) (p : Placed), instrs[i]? = some (.cbranch w) → c.placed[i]? = some p →
    p.cycle < c.cutFloor
  targetFloor : ∀ (i : Nat) (p : Placed), c.isTarget i = true → c.placed[i]? = some p → p.cycle ≤ c.cutFloor
  branchUpper : ∀ (i j : Nat) (w : Fields) (p q : Placed), i < j → instrs[i]? = some (.cbranch w) →
    c.placed[i]? = some p → c.placed[j]? = some q → p.cycle < q.cycle
  branchLower : ∀ (i j : Nat) (w : Fields) (p q : Placed), i < j → instrs[j]? = some (.cbranch w) →
    c.placed[i]? = some p → c.placed[j]? = some q → p.cycle ≤ q.cycle
  targetLower : ∀ (i j : Nat) (p q : Placed), i < j → c.isTarget j = true → c.placed[i]? = some p →
    c.placed[j]? = some q → p.cycle < q.cycle
  targetUpper : ∀ (i j : Nat) (p q : Placed), i < j → c.isTarget i = true → c.placed[i]? = some p →
    c.placed[j]? = some q → p.cycle ≤ q.cycle

/-- The placements so far are a legal schedule of the instructions they stand for (R215), and the tracker's figures
keep it so. -/
structure ScheduleInv (w : Nat) (instrs : List Instr) (c : Compiler) : Prop where
  tracker : TrackerInv instrs c
  lanes : LanesInv w instrs c
  cuts : CutInv instrs c

/-! ### What the compile engine has written (R220, R226–R230) -/

/-- The compiled instructions that raw instructions become, the branches' condition registers being known (R227). -/
def loweredProgram (c : Compiler) (raws : List RawInstr) : List Instr :=
  raws.mapIdx fun k raw => lower raw (c.cregAt k)

/-- The immediate entries of raw instructions, in program order (R129, R220). -/
def entriesOf (raws : List RawInstr) : List Word32 := (raws.map immEntries).flatten

/-- Pass 2 has placed exactly the raw instructions `raws`, a program's first ones: legally (R215), with their
immediates in the buffer in program order and each instruction's index the first of its own (R220). Every branch
pass 1 resolved is a CBRANCH with a target not above it, and every CBRANCH is resolved, once (R205). -/
structure CompiledSoFar (s : State) (raws : List RawInstr) : Prop where
  program : ∀ (k : Nat) (raw : RawInstr), raws[k]? = some raw → s.rawInstr k = some raw
  schedule : ScheduleInv s.params.w (loweredProgram s.compiler raws) s.compiler
  entries : s.imm = entriesOf raws
  capacity : s.imm.length ≤ Config.immCap
  indices : ∀ (k : Nat) (raw : RawInstr) (q : Placed), raws[k]? = some raw → s.compiler.placed[k]? = some q →
    q.immIdx = if immEntries raw = [] then 0 else (entriesOf (raws.take k)).length
  targets : ∀ b ∈ s.compiler.branches, b.target ≤ b.idx
  branches : ∀ b ∈ s.compiler.branches, ∀ raw, raws[b.idx]? = some raw → raw.cls = .cbranch
  resolved : ∀ (k : Nat) (raw : RawInstr), raws[k]? = some raw → raw.cls = .cbranch →
    ∃ b ∈ s.compiler.branches, b.idx = k
  once : (s.compiler.branches.map (·.idx)).Nodup

/-- The 256 raw instructions of the entropy buffer (R91, R180). -/
def State.rawProgram (s : State) : List RawInstr := (List.range Config.programSize).filterMap s.rawInstr

/-- What holds at every step of a compile: in pass 1 the tracker is what R202–R207 make of the instructions examined;
in pass 2 and at emission the branches are pass 1's over the whole program, and the instructions before the next one
are placed. -/
structure CompileInv (s : State) : Prop where
  pass1 : ∀ i, s.agent = .compile (.pass1 i) →
    i < Config.programSize ∧ s.imm = [] ∧ s.compiler = passOneAfter s.params s.rawProgram i
  pass2 : ∀ k, s.agent = .compile (.pass2 k) →
    k < Config.programSize ∧
    s.compiler.branches = (passOneAfter s.params s.rawProgram Config.programSize).branches ∧
    CompiledSoFar s (s.rawProgram.take k)
  emit : s.agent = .compile .emit →
    s.compiler.branches = (passOneAfter s.params s.rawProgram Config.programSize).branches ∧
    CompiledSoFar s s.rawProgram

/-- Raw instruction `j` is emitted before raw instruction `k`: by cycle, the floating ones of a cycle first, and
otherwise in program order (R226). -/
def EmittedBefore (c : Compiler) (instrs : List Instr) (j k : Nat) : Prop :=
  let float : Nat → Bool := fun m => (instrs[m]?).elim false Instr.isFloat
  c.cycleOf j < c.cycleOf k ∨
    (c.cycleOf j = c.cycleOf k ∧ ((float j = true ∧ float k = false) ∨ (float j = float k ∧ j < k)))

/-- The raw instructions placed in a cycle (R226). -/
def inCycle (c : Compiler) (size cycle : Nat) : List Nat := (List.range size).filter fun k => c.cycleOf k == cycle

end Sys2Proof.Machine
end

