-- ==== Sys2Proof/Certificates/Slice0/Obligations.lean ====
section
/-! DEFINITION. The statements for the provers, from the spec's numbered rules. OBLIGATIONS.json lists them. -/

section

open Sys2Proof Sys2Proof.Machine Sys2Proof.Config

/-! ### The step, decoding and reset -/

/-- R256–R260 for a group of one word: when the word at `pc` decodes to `i`, heads a legal group and is alone in it,
the step is `i` executed at this state on the group's lanes, then the resynchronisation; if `i` faults, the step only
sets the record it raised. -/
def Obligations.StepRunsDecodedInstruction : Prop :=
  ∀ (s t : State) (word : Word32) (i : Instr), Dispatching s → s.prog[s.pc]? = some word →
    decodeWord word = .ok i → i.wellFormedHead s.params.w = true → i.fields.n = 1 →
    exec i (s.withIssue (issueOf s.params.w s.pc i.fields.nf.val 0)) = .next t →
      (∀ rec, t.fault = some rec → step s = .next (s.raise rec)) ∧
      (t.fault = none → step s = .next ((t.withIssue s.issue).resync 1))

/-- Words written out bit by bit from R125 and R126 decode to the instructions they stand for; the last three are
reserved encodings (R132). A sanity statement over a few words. -/
def Obligations.SpecWordsDecode : Prop :=
  decodeWord 0x0181000A = .ok (.iaddRs ⟨2, 1, .file, 0, 1, 3, 0⟩) ∧
  decodeWord 0x02040453 = .ok (.iaddM ⟨3, 2, .l1, 4, 0, 4, 0⟩) ∧
  decodeWord 0x11540251 = .ok (.fsubM ⟨1, 2, .l1, 2, 0, 2, 2⟩) ∧
  decodeWord 0x01680400 = .ok (.cbranch ⟨0, 0, .file, 4, 0, 2, 0⟩) ∧
  decodeWord 0x026C0108 = .ok (.cfround ⟨0, 1, .file, 1, 0, 4, 0⟩) ∧
  decodeWord 0x027007E5 = .ok (.istore ⟨5, 4, .l3, 7, 0, 4, 0⟩) ∧
  decodeWord 0x02740000 = .ok (.nop ⟨0, 0, .file, 0, 0, 4, 0⟩) ∧
  decodeWord 0x80000000 = .error .reservedBits ∧
  decodeWord 0x00F80000 = .error .reservedOpcode ∧
  decodeWord 0x00FC0000 = .error .reservedOpcode

/-- The reset column of R451 and R450: `fprc` is 0, `fault` is NONE, no lane requests anything, nothing of the
program, the decoder's fields or groups F and E has a value (so a read of any of them would fault, R413). Two clauses
are the model's choices: `prog_len` is 0 (log 3), and the instance waits for the host (log 7). -/
def Obligations.ResetStateValues : Prop :=
  State.reset.fprc = 0 ∧ State.reset.fault = none ∧
  (∀ l ∈ State.reset.lanes, l.jreq = false ∧ l.jtgt = 0 ∧ l.rreq = false ∧ l.rval = 0) ∧
  (∀ l : Location, State.reset.isWritten l = false) ∧ State.reset.progLen = 0 ∧
  step State.reset = .fault .awaitingHost

/-- The state after reset has every invariant the step keeps. -/
def Obligations.ResetHasInvariants : Prop :=
  MemoryInv State.reset ∧ AddressInv State.reset ∧ LaneInv State.reset ∧ BatchInv State.reset ∧
  GroupEInv State.reset ∧ CapacityInv State.reset ∧ CompileInv State.reset

/-! ### Integer instructions -/

/-- R303. The displacement is register 5's alone; `s = d` uses `r[d]` twice; an entry that register 5 needs and has no
value, the registers having theirs, is UNWRITTEN_READ; nothing but `r[d]` changes. -/
def Obligations.AddShiftedRegister : Prop :=
  ∀ (w : Fields) (s : State), w.loc = .file →
    (s.decoded = true → (w.dst = 5 → w.immIdx.val < s.imm.length) →
      CompletesReg (.iaddRs w) w.dst
        (s.reg w.dst + s.reg w.src <<< w.shift.val
          + (if w.dst = 5 then (s.immEntry w.immIdx.val).signExtend 64 else 0)) s) ∧
    (s.decoded = true → w.dst = 5 → s.imm.length ≤ w.immIdx.val →
      RaisesUnwrittenImm (.iaddRs w) s w.immIdx.val) ∧
    EncodedAs (.iaddRs w) 0 .iaddRs ∧ bitField (encodeWord (.iaddRs w)).toNat 16 2 = w.shift.val

/-- R301, R305, R307, R315. The second operand is `r[s]`, or the sign-extended immediate when `s = d`. -/
def Obligations.TwoOperandResults : Prop :=
  ∀ (w : Fields) (s : State), w.loc = .file →
    let x := s.reg w.dst
    let y := if w.src = w.dst then (s.immEntry w.immIdx.val).signExtend 64 else s.reg w.src
    (s.decoded = true → (w.src = w.dst → w.immIdx.val < s.imm.length) →
      CompletesReg (.isubR w) w.dst (x - y) s ∧
      CompletesReg (.imulR w) w.dst (x * y) s ∧
      CompletesReg (.ixorR w) w.dst (x ^^^ y) s) ∧
    (s.decoded = true → w.src = w.dst → s.imm.length ≤ w.immIdx.val →
      RaisesUnwrittenImm (.isubR w) s w.immIdx.val ∧
      RaisesUnwrittenImm (.imulR w) s w.immIdx.val ∧
      RaisesUnwrittenImm (.ixorR w) s w.immIdx.val) ∧
    EncodedAs (.isubR w) 2 .isubR ∧ EncodedAs (.imulR w) 4 .imulR ∧ EncodedAs (.ixorR w) 12 .ixorR

/-- R317, R318. The amount is taken modulo 64, from `r[s]` or, when `s = d`, from the entry as it stands (R130). The
rotations are given by shifts. -/
def Obligations.RotateResults : Prop :=
  ∀ (w : Fields) (s : State), w.loc = .file →
    let x := s.reg w.dst
    let c := if w.src = w.dst then (s.immEntry w.immIdx.val).toNat % 64 else (s.reg w.src).toNat % 64
    (s.decoded = true → (w.src = w.dst → w.immIdx.val < s.imm.length) →
      CompletesReg (.irorR w) w.dst (x >>> c ||| x <<< (64 - c)) s ∧
      CompletesReg (.irolR w) w.dst (x <<< c ||| x >>> (64 - c)) s) ∧
    (s.decoded = true → w.src = w.dst → s.imm.length ≤ w.immIdx.val →
      RaisesUnwrittenImm (.irorR w) s w.immIdx.val ∧ RaisesUnwrittenImm (.irolR w) s w.immIdx.val) ∧
    EncodedAs (.irorR w) 14 .irorR ∧ EncodedAs (.irolR w) 15 .irolR

/-- R309, R311: the high halves of the 128-bit products, unsigned and signed; `s = d` squares. There is no immediate
form. -/
def Obligations.MultiplyHighRegister : Prop :=
  ∀ (w : Fields) (s : State), w.loc = .file → s.decoded = true →
    CompletesReg (.imulhR w) w.dst
      ((((s.reg w.dst).zeroExtend 128 * (s.reg w.src).zeroExtend 128) >>> 64).setWidth 64) s ∧
    CompletesReg (.ismulhR w) w.dst
      ((((s.reg w.dst).signExtend 128 * (s.reg w.src).signExtend 128).sshiftRight 64).setWidth 64) s ∧
    EncodedAs (.imulhR w) 6 .imulhR ∧ EncodedAs (.ismulhR w) 8 .ismulhR

/-- R302, R304, R306, R308, R310, R312, R316. The operand is the word at the immediate alone for `loc` = 3, else at
base and immediate under the window's mask; that address is aligned and inside the scratchpad. A word whose `loc` is
0, or 3 for another reason than `s = d`, is illegal. -/
def Obligations.IntegerLoadResults : Prop :=
  ∀ (w : Fields) (s : State),
    let imm := s.immEntry w.immIdx.val
    let mask : Word64 := if w.loc = .l1 then 0x3FF8 else if w.loc = .l2 then 0x3FFF8 else 0x1FFFF8
    let a : Nat :=
      if w.loc = .l3 then (imm.zeroExtend 64 &&& mask).toNat
      else ((s.reg w.src + imm.signExtend 64) &&& mask).toNat
    let x := s.reg w.dst
    let m := s.spRead a
    (w.loc ≠ .file → (w.loc = .l3 ↔ w.src = w.dst) →
      (s.decoded = true → w.immIdx.val < s.imm.length →
        CompletesReg (.iaddM w) w.dst (x + m) s ∧
        CompletesReg (.isubM w) w.dst (x - m) s ∧
        CompletesReg (.imulM w) w.dst (x * m) s ∧
        CompletesReg (.imulhM w) w.dst (((x.zeroExtend 128 * m.zeroExtend 128) >>> 64).setWidth 64) s ∧
        CompletesReg (.ismulhM w) w.dst
          (((x.signExtend 128 * m.signExtend 128).sshiftRight 64).setWidth 64) s ∧
        CompletesReg (.ixorM w) w.dst (x ^^^ m) s) ∧
      (s.decoded = true → s.imm.length ≤ w.immIdx.val →
        ∀ i ∈ integerLoads w, RaisesUnwrittenImm i s w.immIdx.val) ∧
      a % 8 = 0 ∧ a + 8 ≤ 2097152) ∧
    (¬(w.loc ≠ .file ∧ (w.loc = .l3 ↔ w.src = w.dst)) → ∀ i ∈ integerLoads w, RaisesBadWord i s) ∧
    EncodedAs (.iaddM w) 1 .iaddM ∧ EncodedAs (.isubM w) 3 .isubM ∧ EncodedAs (.imulM w) 5 .imulM ∧
    EncodedAs (.imulhM w) 7 .imulhM ∧ EncodedAs (.ismulhM w) 9 .ismulhM ∧ EncodedAs (.ixorM w) 13 .ixorM

/-- R313, with R217 for which divisors compile to it: the two entries hold the constant, low word first; `src` is
ignored; every constant of a non-degenerate divisor has bit 63 set. Where neither entry has a value, that the record
names the first is the model's choice (log 6). -/
def Obligations.MultiplyByReciprocal : Prop :=
  (∀ (w : Fields) (s : State), w.loc = .file →
    (s.decoded = true → w.immIdx.val + 1 < s.imm.length →
      CompletesReg (.imulRcp w) w.dst
        (s.reg w.dst * ((s.immEntry (w.immIdx.val + 1)).zeroExtend 64 <<< 32
          ||| (s.immEntry w.immIdx.val).zeroExtend 64)) s) ∧
    (s.decoded = true → s.imm.length ≤ w.immIdx.val → RaisesUnwrittenImm (.imulRcp w) s w.immIdx.val) ∧
    (s.decoded = true → s.imm.length = w.immIdx.val + 1 →
      RaisesUnwrittenImm (.imulRcp w) s (w.immIdx.val + 1)) ∧
    EncodedAs (.imulRcp w) 10 .imulRcp) ∧
  (∀ (raw : RawInstr) (creg : Fin 8), raw.cls = .imulRcp →
    ((raw.imm32 = 0 ∨ ∃ k : Nat, raw.imm32.toNat = 2 ^ k) → (lower raw creg).opcode = 29) ∧
    (raw.imm32 ≠ 0 → (∀ k : Nat, raw.imm32.toNat ≠ 2 ^ k) → (lower raw creg).opcode = 10)) ∧
  (∀ d : Word32, d ≠ 0 → (∀ k : Nat, d.toNat ≠ 2 ^ k) → (reciprocal d).getLsbD 63 = true)

/-- R314, R319, R320: INEG_R negates; ISWAP_R exchanges two registers and with `s = d` has no effect, which is also
what it compiles to; NOP, a compiled opcode that is no raw class, has no effect and still needs its lane. -/
def Obligations.NegateSwapAndNop : Prop :=
  (∀ (w : Fields) (s : State), w.loc = .file →
    (s.decoded = true →
      CompletesReg (.inegR w) w.dst (0 - s.reg w.dst) s ∧
      ∃ t, exec (.iswapR w) s = .next t ∧ t.reg w.dst = s.reg w.src ∧ t.reg w.src = s.reg w.dst ∧
        (∀ j : Fin 8, j ≠ w.dst → j ≠ w.src → t.reg j = s.reg j) ∧ t = { s with r := t.r } ∧ SameBytes s t ∧
        (w.src = w.dst → t = s)) ∧
    exec (.nop w) s = .next s ∧
    EncodedAs (.inegR w) 11 .inegR ∧ EncodedAs (.iswapR w) 16 .iswapR ∧
    bitField (encodeWord (.nop w)).toNat 18 5 = 29 ∧ RawClass.all.length = 29 ∧
    ∀ lanes : Nat, laneNeed lanes (.nop w) = 1) ∧
  (∀ (raw : RawInstr) (creg : Fin 8), raw.cls = .iswapR →
    (lower raw creg).opcode = if raw.src = raw.dst then 29 else 16)

/-! ### Floating instructions -/

/-- R346: the halves change places, in `f[d]` for `d` below 4 and in `e[d − 4]` from 4 on; no rounding. -/
def Obligations.SwapHalves : Prop :=
  ∀ (w : Fields) (s : State) (j : Fin 4), w.loc = .file → s.seeded = true →
    (w.dst.val = j.val → CompletesFReg (.fswapR w) j (fun h => (s.fReg j).half h.other) s) ∧
    (w.dst.val = 4 + j.val → CompletesEReg (.fswapR w) j (fun h => (s.eReg j).half h.other) s) ∧
    EncodedAs (.fswapR w) 17 .fswapR

/-- R347, R349: each half by itself, in the direction of `fprc`; the example of R347 in all four directions, and the
sign of `x − x` for a finite `x`. -/
def Obligations.FloatAddSubRegister : Prop :=
  (∀ (w : Fields) (s : State) (d k : Fin 4), w.loc = .file → w.dst.val = d.val → w.src.val = k.val →
    s.decoded = true → s.seeded = true → UniformMode s →
    CompletesFReg (.faddR w) d
      (fun h => fadd (roundModeOf s.fprc) ((s.fReg d).half h) ((s.aReg k).half h)) s ∧
    CompletesFReg (.fsubR w) d
      (fun h => fsub (roundModeOf s.fprc) ((s.fReg d).half h) ((s.aReg k).half h)) s ∧
    EncodedAs (.faddR w) 18 .faddR ∧ EncodedAs (.fsubR w) 20 .fsubR) ∧
  (∀ mode : RoundMode, fadd mode 0x3CA0000000000000 0x3FF0000000000000 =
    if mode = .up then 0x3FF0000000000001 else 0x3FF0000000000000) ∧
  (∀ (mode : RoundMode) (x : Word64), (fpRat x).isSome = true →
    fsub mode x x = if mode = .down then 0x8000000000000000 else 0)

/-- R343, R348, R350: the memory operand is the converted pair at base and immediate under the L1 or L2 mask; an entry
without a value is UNWRITTEN_READ; the example of R348. -/
def Obligations.FloatAddSubMemory : Prop :=
  (∀ (w : Fields) (s : State) (d : Fin 4), w.loc = .l1 ∨ w.loc = .l2 → w.dst.val = d.val →
    let mask : Word64 := if w.loc = .l1 then 0x3FF8 else 0x3FFF8
    let m := s.spRead ((s.reg w.src + (s.immEntry w.immIdx.val).signExtend 64) &&& mask).toNat
    let operand : Half → Word64 := fun h => cvtI32 (if h = .lo then m.extractLsb' 0 32 else m.extractLsb' 32 32)
    (s.decoded = true → s.seeded = true → UniformMode s → w.immIdx.val < s.imm.length →
      CompletesFReg (.faddM w) d (fun h => fadd (roundModeOf s.fprc) ((s.fReg d).half h) (operand h)) s ∧
      CompletesFReg (.fsubM w) d (fun h => fsub (roundModeOf s.fprc) ((s.fReg d).half h) (operand h)) s) ∧
    (s.decoded = true → s.seeded = true → s.imm.length ≤ w.immIdx.val →
      RaisesUnwrittenImm (.faddM w) s w.immIdx.val ∧ RaisesUnwrittenImm (.fsubM w) s w.immIdx.val) ∧
    EncodedAs (.faddM w) 19 .faddM ∧ EncodedAs (.fsubM w) 21 .fsubM) ∧
  (∀ mode : RoundMode, fadd mode 0x3FF0000000000000 (cvtI32 0xFFFFFFFF) =
    if mode = .down then 0x8000000000000000 else 0)

/-- R351: one XOR of each pattern, no rounding; twice is nothing. -/
def Obligations.ScaleAndNegate : Prop :=
  ∀ (w : Fields) (s : State) (d : Fin 4), w.loc = .file → w.dst.val = d.val → s.seeded = true →
    CompletesFReg (.fscalR w) d (fun h => (s.fReg d).half h ^^^ 0x80F0000000000000) s ∧
    (∀ t u, exec (.fscalR w) s = .next t → exec (.fscalR w) t = .next u → u = s) ∧
    EncodedAs (.fscalR w) 22 .fscalR

/-- R352, R354: each half by itself, in the direction of `fprc`; the root of a negative operand, −∞ included, is a NaN,
and so is a NaN's; the root of +∞ is +∞; the examples of both rules. -/
def Obligations.MultiplyAndRoot : Prop :=
  (∀ (w : Fields) (s : State) (d : Fin 4), w.loc = .file → w.dst.val = d.val → s.seeded = true → UniformMode s →
    (∀ k : Fin 4, w.src.val = k.val → s.decoded = true →
      CompletesEReg (.fmulR w) d
        (fun h => fmul (roundModeOf s.fprc) ((s.eReg d).half h) ((s.aReg k).half h)) s) ∧
    CompletesEReg (.fsqrtR w) d (fun h => fsqrt (roundModeOf s.fprc) ((s.eReg d).half h)) s ∧
    EncodedAs (.fmulR w) 23 .fmulR ∧ EncodedAs (.fsqrtR w) 25 .fsqrtR) ∧
  (∀ (mode : RoundMode) (x : Word64),
    ((∃ q, fpRat x = some q ∧ q < 0) ∨ x = infPattern true ∨ IsNaN x → IsNaN (fsqrt mode x)) ∧
    (x = infPattern false → fsqrt mode x = infPattern false)) ∧
  (∀ mode : RoundMode,
    fmul mode 0x3000000000000000 0x4008000000000000 = 0x3018000000000000 ∧
    fsqrt mode 0x3010000000000000 = 0x3800000000000000 ∧
    fsqrt mode 0x4000000000000000 =
      if mode = .nearestEven ∨ mode = .up then 0x3FF6A09E667F3BCD else 0x3FF6A09E667F3BCC)

/-- R353: the divisor is the converted operand under the half's exponent mask, and with a mask of R42's shape it is a
positive normal number; an entry without a value, the registers having theirs, is UNWRITTEN_READ; the examples. -/
def Obligations.DivideByMemory : Prop :=
  (∀ (w : Fields) (s : State) (d : Fin 4), w.loc = .l1 ∨ w.loc = .l2 → w.dst.val = d.val →
    let mask : Word64 := if w.loc = .l1 then 0x3FF8 else 0x3FFF8
    let m := s.spRead ((s.reg w.src + (s.immEntry w.immIdx.val).signExtend 64) &&& mask).toNat
    let divisor : Half → Word64 := fun h =>
      (cvtI32 (if h = .lo then m.extractLsb' 0 32 else m.extractLsb' 32 32) &&& 0x00FFFFFFFFFFFFFF) |||
        (if h = .lo then s.eMask0 else s.eMask1)
    (s.decoded = true → s.seeded = true → UniformMode s → w.immIdx.val < s.imm.length →
      CompletesEReg (.fdivM w) d (fun h => fdiv (roundModeOf s.fprc) ((s.eReg d).half h) (divisor h)) s) ∧
    (s.decoded = true → s.seeded = true → s.imm.length ≤ w.immIdx.val →
      RaisesUnwrittenImm (.fdivM w) s w.immIdx.val) ∧
    (∀ h : Half, isExponentMask (s.eMask h) = true →
      0x0010000000000000 ≤ (divisor h).toNat ∧ (divisor h).toNat < 0x7FF0000000000000 ∧
      ∃ q, fpRat (divisor h) = some q ∧ 0 < q) ∧
    EncodedAs (.fdivM w) 24 .fdivM) ∧
  (∀ mode : RoundMode,
    fdiv mode 0x30F0000000000000 0x30F0000000000000 = 0x3FF0000000000000 ∧
    fdiv mode 0x3FF0000000000000 0x4008000000000000 =
      if mode = .up then 0x3FD5555555555556 else 0x3FD5555555555555)

/-- R340, R15. On finite operands a sum, difference, product or quotient is the exact result rounded in the direction
asked for, and an exact zero sum or difference has the sign IEEE 754 gives it; a product or quotient that is no NaN has
the exclusive or of the operands' signs. The rest are IEEE 754's special cases: which operands give a NaN, an infinity
or a zero. Which NaN is left open (log 2). -/
def Obligations.ArithmeticRoundsCorrectly : Prop :=
  (∀ (mode : RoundMode) (x y : Word64) (a b : ℚ), fpRat x = some a → fpRat y = some b →
    Rounded mode (a + b) (fadd mode x y) ∧
    Rounded mode (a - b) (fsub mode x y) ∧
    Rounded mode (a * b) (fmul mode x y) ∧
    (b ≠ 0 → Rounded mode (a / b) (fdiv mode x y)) ∧
    (a + b = 0 → fadd mode x y =
      zeroPattern (if signOf x = signOf y then signOf x else decide (mode = .down))) ∧
    (a - b = 0 → fsub mode x y =
      zeroPattern (if signOf x = !signOf y then signOf x else decide (mode = .down))) ∧
    (b = 0 → (a = 0 → IsNaN (fdiv mode x y)) ∧
      (a ≠ 0 → fdiv mode x y = infPattern (signOf x != signOf y)))) ∧
  (∀ (mode : RoundMode) (x y : Word64), IsNaN x ∨ IsNaN y →
    IsNaN (fadd mode x y) ∧ IsNaN (fsub mode x y) ∧ IsNaN (fmul mode x y) ∧ IsNaN (fdiv mode x y)) ∧
  (∀ (mode : RoundMode) (m n : Bool),
    (m = n → fadd mode (infPattern m) (infPattern n) = infPattern m) ∧
    (m ≠ n → IsNaN (fadd mode (infPattern m) (infPattern n))) ∧
    (m ≠ n → fsub mode (infPattern m) (infPattern n) = infPattern m) ∧
    (m = n → IsNaN (fsub mode (infPattern m) (infPattern n))) ∧
    fmul mode (infPattern m) (infPattern n) = infPattern (m != n) ∧
    IsNaN (fdiv mode (infPattern m) (infPattern n))) ∧
  (∀ (mode : RoundMode) (m : Bool) (x : Word64) (a : ℚ), fpRat x = some a →
    fadd mode (infPattern m) x = infPattern m ∧ fadd mode x (infPattern m) = infPattern m ∧
    fsub mode (infPattern m) x = infPattern m ∧ fsub mode x (infPattern m) = infPattern (!m) ∧
    (a ≠ 0 → fmul mode (infPattern m) x = infPattern (m != signOf x) ∧
      fmul mode x (infPattern m) = infPattern (m != signOf x)) ∧
    (a = 0 → IsNaN (fmul mode (infPattern m) x) ∧ IsNaN (fmul mode x (infPattern m))) ∧
    fdiv mode (infPattern m) x = infPattern (m != signOf x) ∧
    fdiv mode x (infPattern m) = zeroPattern (m != signOf x)) ∧
  (∀ (mode : RoundMode) (x y : Word64),
    (¬IsNaN (fmul mode x y) → signOf (fmul mode x y) = (signOf x != signOf y)) ∧
    (¬IsNaN (fdiv mode x y) → signOf (fdiv mode x y) = (signOf x != signOf y)))

/-- R340, R354: in each of the four directions the root of a finite number that is not negative is the exact root
rounded in that direction; the root of a zero is that zero. -/
def Obligations.RootRoundsCorrectly : Prop :=
  ∀ (mode : RoundMode) (x : Word64) (a : ℚ), fpRat x = some a → 0 ≤ a →
    RootRounded mode a (fsqrt mode x) ∧ (a = 0 → fsqrt mode x = x)

/-- R341, R342: the conversion of a 32-bit integer is exact; masking keeps the low 56 bits of the pattern but for what
the mask sets, clears the sign, takes the top bits from the mask, and gives a positive normal number. -/
def Obligations.ConversionAndMasking : Prop :=
  (∀ v : Word32, fpRat (cvtI32 v) = some (v.toInt : ℚ)) ∧
  (∀ v : Word64, cvtPair v .lo = cvtI32 (v.extractLsb' 0 32) ∧ cvtPair v .hi = cvtI32 (v.extractLsb' 32 32)) ∧
  (∀ x m : Word64, maskE x m = (x &&& 0x00FFFFFFFFFFFFFF) ||| m) ∧
  (∀ x m : Word64, isExponentMask m = true →
    (maskE x m).getLsbD 63 = false ∧ maskE x m >>> 56 = m >>> 56 ∧
    0x0010000000000000 ≤ (maskE x m).toNat ∧ (maskE x m).toNat < 0x7FF0000000000000)

/-! ### Control and store -/

/-- R380: the register takes the sum whether or not the branch is taken; a taken branch, one whose tested bits
`b` to `b + 7` of the sum are all 0, sets the request of the lanes the word runs on; nothing else changes. -/
def Obligations.BranchResult : Prop :=
  ∀ (w : Fields) (s : State), w.loc = .file → s.decoded = true → w.immIdx.val + 1 < s.imm.length →
    let second := s.immEntry (w.immIdx.val + 1)
    let b := bitField second.toNat 16 5
    let target := bitField second.toNat 0 16
    let sum := s.reg w.dst + (s.immEntry w.immIdx.val).signExtend 64
    bitField second.toNat 21 11 = 0 → 8 ≤ b → b ≤ 23 → target < s.progLen →
    ∃ t, exec (.cbranch w) s = .next t ∧ t.reg w.dst = sum ∧
      (∀ j : Fin 8, j ≠ w.dst → t.reg j = s.reg j) ∧ t = { s with r := t.r, lanes := t.lanes } ∧ SameBytes s t ∧
      t.lanes.length = s.lanes.length ∧
      (∀ (i : Nat) (l : Lane), s.lanes[i]? = some l →
        t.lanes[i]? = some
          (if i ∈ s.issue.lanes ∧ sum.toNat / 2 ^ b % 2 ^ 8 = 0 then
            { l with jreq := true, jtgt := BitVec.ofNat 16 target }
          else l))

/-- R381: the checks come before any effect and do not depend on whether the branch would be taken. Two things a record
holds are the model's: of two entries without a value it names the first (log 6), and for an illegal second entry it
holds the CBRANCH's own word (log 13). -/
def Obligations.BranchChecks : Prop :=
  ∀ (w : Fields) (s : State), w.loc = .file →
    let second := s.immEntry (w.immIdx.val + 1)
    let b := bitField second.toNat 16 5
    let legalEntry := bitField second.toNat 21 11 = 0 ∧ 8 ≤ b ∧ b ≤ 23
    (s.decoded = true → s.imm.length ≤ w.immIdx.val → RaisesUnwrittenImm (.cbranch w) s w.immIdx.val) ∧
    (s.decoded = true → s.imm.length = w.immIdx.val + 1 →
      RaisesUnwrittenImm (.cbranch w) s (w.immIdx.val + 1)) ∧
    (s.decoded = true → w.immIdx.val + 1 < s.imm.length → ¬legalEntry → RaisesBadWord (.cbranch w) s) ∧
    (s.decoded = true → w.immIdx.val + 1 < s.imm.length → legalEntry →
      s.progLen ≤ bitField second.toNat 0 16 →
      exec (.cbranch w) s
        = .next (s.raise (.badTarget s.pc s.issue.word (bitField second.toNat 0 16))))

/-- R385, with the code of R44: the requested mode is the low two bits of `r[s]` rotated right by the entry modulo 64;
only the request of the lanes the word runs on changes; a request for the mode in force leaves `fprc`. -/
def Obligations.RoundingRequest : Prop :=
  (∀ (w : Fields) (s : State), w.loc = .file →
    let mode := BitVec.ofNat 2 ((s.reg w.src).rotateRight ((s.immEntry w.immIdx.val).toNat % 64)).toNat
    (s.decoded = true → w.immIdx.val < s.imm.length →
      ∃ t, exec (.cfround w) s = .next t ∧ t = { s with lanes := t.lanes } ∧ SameBytes s t ∧
        t.lanes.length = s.lanes.length ∧
        (∀ (i : Nat) (l : Lane), s.lanes[i]? = some l →
          t.lanes[i]? = some (if i ∈ s.issue.lanes then { l with rreq := true, rval := mode } else l))) ∧
    (s.decoded = true → s.imm.length ≤ w.immIdx.val → RaisesUnwrittenImm (.cfround w) s w.immIdx.val) ∧
    EncodedAs (.cfround w) 27 .cfround) ∧
  (∀ (s : State) (n : Nat), roundingVote s.lanes = some s.fprc → (s.resync n).fprc = s.fprc) ∧
  roundModeOf 0 = .nearestEven ∧ roundModeOf 1 = .down ∧ roundModeOf 2 = .up ∧ roundModeOf 3 = .zero

/-- R387: the eight bytes of `r[s]` from the address the model stores to, which is base `r[d]` and immediate under the
window's mask, the L3 form included; every other byte stays; `loc` = 0 is BAD_WORD; the window of the raw forms; a
store and a load never share a group. The memory is canonical (`MemoryInv`), so that a stored byte reads back. -/
def Obligations.StoreWord : Prop :=
  (∀ (w : Fields) (s : State),
    let mask : Word64 := if w.loc = .l1 then 0x3FF8 else if w.loc = .l2 then 0x3FFF8 else 0x1FFFF8
    let a := s.storeAddr w
    (w.loc ≠ .file →
      a = ((s.reg w.dst + (s.immEntry w.immIdx.val).signExtend 64) &&& mask).toNat ∧ a % 8 = 0 ∧
      a + 8 ≤ 2097152 ∧
      (s.decoded = true → w.immIdx.val < s.imm.length → s.scratch.wf = true →
        ∃ t, exec (.istore w) s = .next t ∧ t.spRead a = s.reg w.src ∧
          (∀ k : Nat, k < 8 → t.scratch.read (a + k) = (s.reg w.src).extractLsb' (8 * k) 8) ∧ OnlyBytes a s t) ∧
      (s.decoded = true → s.imm.length ≤ w.immIdx.val → RaisesUnwrittenImm (.istore w) s w.immIdx.val)) ∧
    (w.loc = .file → RaisesBadWord (.istore w) s) ∧
    EncodedAs (.istore w) 28 .istore ∧
    (∀ (v : Fields) (i : Instr), i ∈ integerLoads v ∨ i ∈ floatingLoads v →
      conflicts (.istore w) i = true ∧ conflicts i (.istore w) = true)) ∧
  (∀ (raw : RawInstr) (creg : Fin 8), raw.cls = .istore →
    (lower raw creg).fields.loc =
      if 14 ≤ raw.modCond.val then .l3 else if raw.modMem = 0 then .l2 else .l1)

/-! ### Faults -/

/-- R413 on the decoder's fields and groups F and E: before the decoder has run, every word but NOP and the floating
words raises UNWRITTEN_READ, and before the batch's first seeding every floating word does. Which place is named is
the model's choice (log 6). -/
def Obligations.UnwrittenReadsFault : Prop :=
  ∀ (i : Instr) (s : State), i.legal = true → i.opcode ≠ 29 →
    (if i.isFloat then s.seeded = false else s.decoded = false) →
    ∃ l : Location, s.isWritten l = false ∧ exec i s = .next (s.raise (.unwrittenRead s.pc s.issue.word l))

/-- R132, R256, R257: a first word with illegal bits or counts raises BAD_WORD for itself; another word of the group
with illegal bits does once the words before it are legal, whatever its counts; nothing else changes (R415). -/
def Obligations.IllegalWordsFault : Prop :=
  ∀ (s : State) (first : Word32), Dispatching s → s.prog[s.pc]? = some first →
    (IllegalBits first ∨ IllegalCounts s.params.w first → step s = .next (s.raise (.badWord s.pc s.pc first))) ∧
    (¬IllegalBits first → ¬IllegalCounts s.params.w first → s.pc + bitField first.toNat 23 4 ≤ s.progLen →
      ∀ (j : Nat) (word : Word32), 1 ≤ j → j < bitField first.toNat 23 4 → s.prog[s.pc + j]? = some word →
        (∀ (k : Nat) (v : Word32), k < j → s.prog[s.pc + k]? = some v → ¬IllegalBits v) → IllegalBits word →
        step s = .next (s.raise (.badWord s.pc (s.pc + j) word))) ∧
    (¬IllegalBits first → ¬IllegalCounts s.params.w first → s.progLen < s.pc + bitField first.toNat 23 4 →
      step s = .next (s.raise (.pcRange s.pc (bitField first.toNat 23 4))))

/-- R410, R419: the record is set once and nothing else changes; a stopped instance takes no step. -/
def Obligations.FaultIsSticky : Prop :=
  ∀ (s : State) (rec : FaultRecord),
    (s.fault = none → s.raise rec = { s with fault := some rec }) ∧
    (∀ old, s.fault = some old → s.raise rec = s) ∧
    (s.params.ok = true → s.fault ≠ none → step s = .fault .instanceStopped)

/-- R415 for every step between groups (`LaneInv`): a step that records a fault changes nothing but the record. -/
def Obligations.FaultingStepChangesOnlyFault : Prop :=
  ∀ s t : State, LaneInv s → step s = .next t → t.fault ≠ none → OnlyFault s t

/-! ### Groups -/

/-- R258: the words of a legal group whose own operand checks pass, two of which conflict: the step raises
GROUP_CONFLICT for a conflicting pair and a resource they conflict on, and applies nothing. Which pair is named is the
model's choice (log 12). -/
def Obligations.ConflictingGroupFaults : Prop :=
  ∀ (s : State) (g : Nat → Instr) (own : Nat → State), Dispatching s →
    let n := (g 0).fields.n.val
    let nf := (g 0).fields.nf.val
    (g 0).wellFormedHead s.params.w = true → s.pc + n ≤ s.progLen →
    (∀ j, j < n → ∃ word, s.prog[s.pc + j]? = some word ∧ decodeWord word = .ok (g j) ∧
      (g j).wellFormed = true ∧ exec (g j) (s.withIssue (issueOf s.params.w s.pc nf j)) = .next (own j) ∧
      (own j).fault = none) →
    (∃ i j, i < j ∧ j < n ∧ conflicts (g i) (g j) = true) →
    ∃ i j x, i < j ∧ j < n ∧ conflictOn (g i) (g j) x = true ∧
      step s = .next (s.raise (.groupConflict s.pc (s.pc + i) (s.pc + j) x))

/-- R258, R271: in a group without a conflict every word takes the effect it has by itself on the state before the
group, whatever the other words are, and its lanes make its requests; a resource no word writes and a lane no word runs on
stay; the step then resynchronises. -/
def Obligations.GroupAppliesEveryWord : Prop :=
  ∀ (s : State) (g : Nat → Instr) (own : Nat → State), Dispatching s →
    let n := (g 0).fields.n.val
    let nf := (g 0).fields.nf.val
    (g 0).wellFormedHead s.params.w = true → s.pc + n ≤ s.progLen →
    (∀ j, j < n → ∃ word, s.prog[s.pc + j]? = some word ∧ decodeWord word = .ok (g j) ∧
      (g j).wellFormed = true ∧ exec (g j) (s.withIssue (issueOf s.params.w s.pc nf j)) = .next (own j) ∧
      (own j).fault = none) →
    (∀ i j, i < j → j < n → conflicts (g i) (g j) = false) →
    ∃ u, step s = .next (u.resync n) ∧ InstructionFrame s u ∧ u.fault = none ∧
      (∀ j, j < n → ∀ x ∈ writeSet (g j), SameResource x (own j) u) ∧
      (∀ x : Resource, (∀ j, j < n → x ∉ writeSet (g j)) → SameResource x s u) ∧
      (∀ j, j < n → ∀ i ∈ (issueOf s.params.w s.pc nf j).lanes, u.lanes[i]? = (own j).lanes[i]?) ∧
      (∀ i : Nat, (∀ j, j < n → i ∉ (issueOf s.params.w s.pc nf j).lanes) → u.lanes[i]? = s.lanes[i]?)

/-- R208, R214, R258, R271. The order in which the effects of words that do not conflict, and run on lanes of their own,
are applied does not matter; and two such words executed one after the other, each on its own lanes, give the same state
in either order, no fault arising that neither raised by itself. Last, R208's table by compiled opcode and its definition
of a conflict. That a compiled ISWAP_R with `s = d`, which no compile engine emits, has the empty sets of the degenerate
form is the model's choice (log 12). -/
def Obligations.EffectOrderIrrelevant : Prop :=
  (∀ (s : State) (xs ys : List (Slot × State)), xs.Perm ys →
    xs.Pairwise (fun a b => conflicts a.1.instr b.1.instr = false) →
    xs.Pairwise (fun a b => ∀ i ∈ a.1.issue.lanes, i ∉ b.1.issue.lanes) →
    xs.foldl State.applyResult s = ys.foldl State.applyResult s) ∧
  (∀ (s a b : State) (i j : Instr) (u v : Issue), conflicts i j = false → (∀ k ∈ u.lanes, k ∉ v.lanes) →
    exec i (s.withIssue u) = .next a → a.fault = none → exec j (s.withIssue v) = .next b → b.fault = none →
    ∃ c d, exec j (a.withIssue v) = .next c ∧ exec i (b.withIssue u) = .next d ∧ c.fault = none ∧
      c.withIssue s.issue = d.withIssue s.issue) ∧
  (∀ i : Instr, i.legal = true →
    let op := i.opcode
    let d := i.fields.dst
    let s := i.fields.src
    (∀ k : Fin 8, .r k ∈ readSet i ↔
      (op ≤ 15 ∧ k = d) ∨ (op ≤ 15 ∧ op ≠ 10 ∧ op ≠ 11 ∧ k = s) ∨ (op = 16 ∧ s ≠ d ∧ (k = d ∨ k = s)) ∨
      (op ∈ [26, 28] ∧ k = d) ∨ (op ∈ [19, 21, 24, 27, 28] ∧ k = s)) ∧
    (∀ k : Fin 8, .r k ∈ writeSet i ↔
      ((op ≤ 15 ∨ op = 26) ∧ k = d) ∨ (op = 16 ∧ s ≠ d ∧ (k = d ∨ k = s))) ∧
    (∀ k : Fin 4, .f k ∈ readSet i ↔ op ∈ [17, 18, 19, 20, 21, 22] ∧ d.val = k.val) ∧
    (∀ k : Fin 4, .f k ∈ writeSet i ↔ op ∈ [17, 18, 19, 20, 21, 22] ∧ d.val = k.val) ∧
    (∀ k : Fin 4, .e k ∈ readSet i ↔ (op = 17 ∧ d.val = 4 + k.val) ∨ (op ∈ [23, 24, 25] ∧ d.val = k.val)) ∧
    (∀ k : Fin 4, .e k ∈ writeSet i ↔ (op = 17 ∧ d.val = 4 + k.val) ∨ (op ∈ [23, 24, 25] ∧ d.val = k.val)) ∧
    (.fprc ∈ readSet i ↔ op ∈ [18, 19, 20, 21, 23, 24, 25]) ∧ (.fprc ∈ writeSet i ↔ op = 27) ∧
    (.mem ∈ readSet i ↔ op ∈ [1, 3, 5, 7, 9, 13, 19, 21, 24, 28]) ∧ (.mem ∈ writeSet i ↔ op = 28)) ∧
  (∀ i j : Instr, conflicts i j = true ↔
    ∃ x, (x ∈ writeSet i ∧ (x ∈ readSet j ∨ x ∈ writeSet j)) ∨ (x ∈ readSet i ∧ x ∈ writeSet j))

/-- R259, R260, R16: the lowest lane with a request decides; without one `pc` advances by `n` and the mode stays; every
lane then agrees and requests nothing, and nothing else changes; a `pc` past the program's end is PC_RANGE and leaves `pc` (R412, R415). That such
a fault leaves `fprc` and the lanes' requests too is the model's reading (log 19). -/
def Obligations.ResyncTakesLowestLane : Prop :=
  ∀ (s : State) (n target : Nat) (mode : BitVec 2),
    ((∃ (i : Nat) (l : Lane), s.lanes[i]? = some l ∧ l.jreq = true ∧ target = l.jtgt.toNat ∧
        ∀ (j : Nat) (m : Lane), j < i → s.lanes[j]? = some m → m.jreq = false) ∨
      ((∀ l ∈ s.lanes, l.jreq = false) ∧ target = s.pc + n)) →
    ((∃ (i : Nat) (l : Lane), s.lanes[i]? = some l ∧ l.rreq = true ∧ mode = l.rval ∧
        ∀ (j : Nat) (m : Lane), j < i → s.lanes[j]? = some m → m.rreq = false) ∨
      ((∀ l ∈ s.lanes, l.rreq = false) ∧ mode = s.fprc)) →
    (target ≤ s.progLen →
      s.resync n =
        { s with
          pc := target, fprc := mode, phase := if target = s.progLen then .writeback else .dispatch,
          lanes := List.replicate s.lanes.length ⟨target, mode, false, 0, false, 0⟩ }) ∧
    (s.progLen < target → s.resync n = s.raise (.pcRange s.pc n))

/-- R421, R36, R102, R105: dispatching changes registers of `r`, F and E, the scratchpad, `fprc`, `pc`, the lanes, the
phase and the fault record, and no other piece of state: not group A, the address scalars, the selectors, the exponent
masks, the dataset offset, the program, the immediates or the dataset. -/
def Obligations.DispatchKeepsControlState : Prop :=
  ∀ s t : State, s.dispatchStep = .next t →
    t = { s with
          r := t.r, f := t.f, e := t.e, scratch := t.scratch, fprc := t.fprc, pc := t.pc, lanes := t.lanes,
          phase := t.phase, fault := t.fault }

/-! ### Rounds and batches -/

/-- R250–R253, R255: the addresses, then the registers seeded from the state before the step; `pc` becomes 0 and every
lane starts there; nothing else changes. -/
def Obligations.SeedingResult : Prop :=
  ∀ s : State, s.params.ok = true → s.fault = none → s.agent = .interpret → s.phase = .seed → s.decoded = true →
    let mix := s.reg (s.readReg.get 0) ^^^ s.reg (s.readReg.get 1)
    let a0 := (s.spAddr0 ^^^ mix.extractLsb' 0 32) &&& 0x1FFFC0
    let a1 := (s.spAddr1 ^^^ mix.extractLsb' 32 32) &&& 0x1FFFC0
    ∃ t, step s = .next t ∧ t.spAddr0 = a0 ∧ t.spAddr1 = a1 ∧
      a0.toNat % 64 = 0 ∧ a0.toNat < 2097152 ∧ a1.toNat % 64 = 0 ∧ a1.toNat < 2097152 ∧
      (∀ k : Fin 8, t.reg k = s.reg k ^^^ s.spRead (a0.toNat + 8 * k.val)) ∧
      (∀ k : Fin 4,
        (t.fReg k).lo = cvtI32 ((s.spRead (a1.toNat + 8 * k.val)).extractLsb' 0 32) ∧
        (t.fReg k).hi = cvtI32 ((s.spRead (a1.toNat + 8 * k.val)).extractLsb' 32 32)) ∧
      (∀ k : Fin 4,
        (t.eReg k).lo = maskE (cvtI32 ((s.spRead (a1.toNat + 8 * (4 + k.val))).extractLsb' 0 32)) s.eMask0 ∧
        (t.eReg k).hi = maskE (cvtI32 ((s.spRead (a1.toNat + 8 * (4 + k.val))).extractLsb' 32 32)) s.eMask1) ∧
      t.pc = 0 ∧ t.phase = .dispatch ∧ t.seeded = true ∧ t.lanes = s.lanes.map (fun _ => Lane.fresh 0 s.fprc) ∧
      t = { s with
            r := t.r, f := t.f, e := t.e, spAddr0 := t.spAddr0, spAddr1 := t.spAddr1, seeded := t.seeded,
            pc := t.pc, lanes := t.lanes, phase := t.phase }

/-- R262–R267 and R270: the scalars fold and swap, the dataset item at the old `ma` is mixed in, F folds with E, the
two rows are stored (the second over the first where they are one row), the round ends; at the end of the last batch
the 192 bytes of `r`, F and E are handed over, and otherwise nothing is. -/
def Obligations.WritebackResult : Prop :=
  ∀ s : State, s.params.ok = true → s.fault = none → s.agent = .interpret → s.phase = .writeback →
    s.decoded = true → s.seeded = true → MemoryInv s → AddressInv s →
    s.spAddr0.toNat % 64 = 0 → s.spAddr1.toNat % 64 = 0 →
    let a0 := s.spAddr0.toNat
    let a1 := s.spAddr1.toNat
    ∃ t, step s = .next t ∧
      t.ma = (s.mx ^^^ (s.reg (s.readReg.get 2)).extractLsb' 0 32 ^^^ (s.reg (s.readReg.get 3)).extractLsb' 0 32)
        &&& 0x7FFFFFC0 ∧
      t.mx = s.ma ∧
      (∀ k : Fin 8, t.reg k = s.reg k ^^^ s.dsRead (s.datasetOffset.toNat + s.ma.toNat + 8 * k.val)) ∧
      (∀ (k : Fin 4) (h : Half), (t.fReg k).half h = (s.fReg k).half h ^^^ (s.eReg k).half h) ∧
      (∀ k : Fin 4, t.spRead (a0 + 16 * k.val) = (t.fReg k).lo ∧ t.spRead (a0 + 16 * k.val + 8) = (t.fReg k).hi) ∧
      (a0 ≠ a1 → ∀ k : Fin 8, t.spRead (a1 + 8 * k.val) = t.reg k) ∧
      (∀ b : Nat, b < a0 ∨ a0 + 64 ≤ b → b < a1 ∨ a1 + 64 ≤ b → t.scratch.read b = s.scratch.read b) ∧
      t.spAddr0 = 0 ∧ t.spAddr1 = 0 ∧ t.round = s.round + 1 ∧
      t.phase = (if s.round + 1 < s.numIter then .seed else .done) ∧
      t.agent = (if s.round + 1 < s.numIter then .interpret else .host) ∧
      (if s.last = true ∧ s.numIter ≤ s.round + 1 then
        ∃ out, t.output = some out ∧ out.length = 192 ∧
          (∀ (k : Fin 8) (b : Nat), b < 8 → out[8 * k.val + b]? = some ((t.reg k).extractLsb' (8 * b) 8)) ∧
          (∀ (k : Fin 4) (b : Nat), b < 8 →
            out[64 + 16 * k.val + b]? = some ((t.fReg k).lo.extractLsb' (8 * b) 8) ∧
            out[64 + 16 * k.val + 8 + b]? = some ((t.fReg k).hi.extractLsb' (8 * b) 8) ∧
            out[128 + 16 * k.val + b]? = some ((t.eReg k).lo.extractLsb' (8 * b) 8) ∧
            out[128 + 16 * k.val + 8 + b]? = some ((t.eReg k).hi.extractLsb' (8 * b) 8))
       else t.output = s.output) ∧
      t = { s with
            r := t.r, f := t.f, ma := t.ma, mx := t.mx, scratch := t.scratch, spAddr0 := 0, spAddr1 := 0,
            round := t.round, phase := t.phase, agent := t.agent, output := t.output }

/-- R268, R106: a batch launched on a compiled program starts in SEED at round 0, from `mx` and `ma` when it is the
first and from 0 otherwise; before a compile, or with no round, the launch is refused. R426, R451, R453: the start of a
hash takes the host's scratchpad, keeps the dataset, sets `fprc` to 0 and leaves no place of R413 with a value; the
scratchpad alone can be given; a compile takes the entropy buffer and hands the turn to the compile engine. How a host's
interactions reach the instance is the model's (log 7), that a memory which does not fit its buffer is refused (log 26),
that a compile takes back the last result (log 22), and that a launch keeps `pc` (log 30). -/
def Obligations.BatchStartResult : Prop :=
  (∀ (s : State) (k : Nat) (first last : Bool) (queue : List HostCmd), s.params.ok = true → s.fault = none →
    s.agent = .host → s.hostQueue = .interpret k first last :: queue →
    (s.decoded = true → s.prog ≠ [] → k ≠ 0 →
      step s = .next
        { s with
          round := 0, phase := .seed, first := first, last := last, numIter := k,
          spAddr0 := if first then s.mx else 0, spAddr1 := if first then s.ma else 0,
          lanes := List.replicate s.params.w ⟨s.pc, s.fprc, false, 0, false, 0⟩,
          seeded := false, agent := .interpret, hostQueue := queue }) ∧
    (s.decoded = false ∨ s.prog = [] → step s = .refused .launchBeforeCompile) ∧
    (s.decoded = true → s.prog ≠ [] → k = 0 → step s = .refused .emptyBatch)) ∧
  (∀ (s : State) (m : Memory) (queue : List HostCmd), s.params.ok = true → s.fault = none → s.agent = .host →
    (s.hostQueue = .startHash m :: queue →
      (m.fits 2097152 = true →
        ∃ t, step s = .next t ∧ t.fprc = 0 ∧ t.fault = none ∧ (∀ l : Location, t.isWritten l = false) ∧
          t.lanes.length = s.params.w ∧
          (∀ l ∈ t.lanes, l.fprc = 0 ∧ l.jreq = false ∧ l.jtgt = 0 ∧ l.rreq = false ∧ l.rval = 0) ∧
          t.scratch = m ∧ t.dataset = s.dataset ∧ t.params = s.params ∧ t.hostQueue = queue ∧ t.agent = .host ∧
          t.output = none) ∧
      (m.fits 2097152 = false → step s = .refused .badHostMemory)) ∧
    (s.hostQueue = .initScratchpad m :: queue →
      (m.fits 2097152 = true → step s = .next { s with scratch := m, hostQueue := queue }) ∧
      (m.fits 2097152 = false → step s = .refused .badHostMemory)) ∧
    (s.hostQueue = .compile m :: queue →
      (m.fits 2176 = true →
        step s = .next { s with entropy := m, output := none, agent := .compile .decode, hostQueue := queue }) ∧
      (m.fits 2176 = false → step s = .refused .badHostMemory)))

/-- R269: the transitions of a running batch are exactly these; an instance that has handed its turn to a host with
nothing to send takes no step (the model's, log 7). R458: where every round's dispatching ends, a batch ends at DONE with
exactly `NUM_ITER` rounds, unless it faults; a run with fuel that is over has reached the end of R460 by its own steps,
and one whose fuel ran out is not finished. R460: a run comes to be over only by the write-back of the last round of its
`last` batch, with its result; from there only a new scratchpad leaves it over. -/
def Obligations.PhaseTransitions : Prop :=
  (∀ s t : State, step s = .next t → s.agent = .interpret → s.phase ≠ .done → t.fault = none →
    (s.phase = .seed ∧ t.phase = .dispatch ∧ t.agent = .interpret) ∨
    (s.phase = .dispatch ∧ (t.phase = .dispatch ∨ t.phase = .writeback) ∧ t.agent = .interpret) ∨
    (s.phase = .writeback ∧ t.phase = .seed ∧ t.agent = .interpret ∧ s.round + 1 < s.numIter) ∨
    (s.phase = .writeback ∧ t.phase = .done ∧ t.agent = .host ∧ s.numIter ≤ s.round + 1)) ∧
  (∀ s : State, s.params.ok = true → s.fault = none → s.agent = .host → s.hostQueue = [] →
    step s = .fault .awaitingHost) ∧
  (∀ s : State, s.params.ok = true → s.fault = none → s.agent = .interpret → BatchInv s → s.RoundsTerminate →
    ∃ (k : Nat) (t : State), s.stepN k = some t ∧
      (t.fault ≠ none ∨ (t.phase = .done ∧ t.agent = .host ∧ t.round = s.numIter))) ∧
  (∀ (fuel : Nat) (s t : State),
    (s.runFor fuel = .over t ↔
      ∃ k, k ≤ fuel ∧ s.stepN k = some t ∧ t.runOver = true ∧
        ∀ (j : Nat) (u : State), j < k → s.stepN j = some u → u.runOver = false) ∧
    (s.runFor fuel = .notFinished t ↔
      s.stepN fuel = some t ∧ ∀ (j : Nat) (u : State), j ≤ fuel → s.stepN j = some u → u.runOver = false)) ∧
  (∀ s t : State, step s = .next t →
    (s.runOver = false → t.runOver = true →
      s.agent = .interpret ∧ s.phase = .writeback ∧ s.last = true ∧ s.numIter ≤ s.round + 1 ∧
      t.output = some t.finalOutput) ∧
    (s.runOver = true → s.agent = .host →
      (t.runOver = true ↔ ∃ m queue, s.hostQueue = .initScratchpad m :: queue)))

/-- R96: with `ma` and the dataset offset in their ranges no step raises DATASET_RANGE; a write-back whose item passes
the dataset's end raises it before any write, for the first word that does. -/
def Obligations.DatasetRange : Prop :=
  (∀ (s t : State) (r a : Nat), AddressInv s → step s = .next t → t.fault ≠ some (.datasetRange r a)) ∧
  (∀ (s : State) (k : Nat), s.params.ok = true → s.fault = none → s.agent = .interpret → s.phase = .writeback →
    s.decoded = true → s.seeded = true → k < 8 →
    (2147483648 + 64 * s.params.datasetExtraItems
      < s.datasetOffset.toNat + s.ma.toNat + 8 * k + 8) →
    (∀ j, j < k → s.datasetOffset.toNat + s.ma.toNat + 8 * j + 8
      ≤ 2147483648 + 64 * s.params.datasetExtraItems) →
    step s = .next (s.raise (.datasetRange s.round (s.datasetOffset.toNat + s.ma.toNat + 8 * k))))

/-- R9: a number of lanes other than 1, 2, 4 or 8, frequencies that do not sum to 256, or a latency below 1 is refused
before any step. -/
def Obligations.BadConfigurationRefused : Prop :=
  ∀ s : State,
    (s.params.w ∉ [1, 2, 4, 8] ∨ s.params.freq.sum ≠ 256 ∨ s.params.latInt < 1 ∨ s.params.latFp < 1 ∨
      s.params.latMem < 1 ∨ s.params.latMemHigh < 1) →
    step s = .refused .badConfiguration

/-! ### Encodings -/

/-- Decoding an encoded instruction gives it back, with every operand at every value, and the rest of the bytes
(R125, R126, R133). -/
def Obligations.DecodeEncodeRoundTrip : Prop :=
  ∀ (i : Instr) (rest : List Byte), decodeWord (encodeWord i) = .ok i ∧ decode (encode i ++ rest) = .ok (i, rest)

/-- Each word has one meaning: a decoded word is the encoding of what it decodes to; and the words that decode to
nothing are exactly those with reserved bits set or opcode 30 or 31 (R126, R132). -/
def Obligations.DecodeIsExact : Prop :=
  (∀ (word : Word32) (i : Instr), decodeWord word = .ok i → encodeWord i = word) ∧
  (∀ word : Word32, (∃ r, decodeWord word = .error r) ↔
    bitField word.toNat 30 2 ≠ 0 ∨ bitField word.toNat 18 5 = 30 ∨ bitField word.toNat 18 5 = 31)

/-- R123, with the fields of R120 and R121: under frequencies that sum to 256 every opcode byte selects exactly one
class, the one whose interval of cumulative frequencies holds it, and a raw word's fields are its bits. -/
def Obligations.RawDecodingIsUnique : Prop :=
  ∀ (freq : List Nat) (w : Word64), freq.length = 29 → freq.sum = 256 →
    ∃ (c : Nat) (cls : RawClass) (raw : RawInstr), RawClass.all[c]? = some cls ∧
      (freq.take c).sum ≤ w.toNat % 256 ∧ w.toNat % 256 < (freq.take (c + 1)).sum ∧
      (∀ d, d < 29 → (freq.take d).sum ≤ w.toNat % 256 → w.toNat % 256 < (freq.take (d + 1)).sum → d = c) ∧
      decodeRaw freq w = some raw ∧ raw.cls = cls ∧
      raw.dst.val = (w.extractLsb' 8 3).toNat ∧ raw.src.val = (w.extractLsb' 16 3).toNat ∧
      raw.modMem.val = (w.extractLsb' 24 2).toNat ∧ raw.modShift.val = (w.extractLsb' 26 2).toNat ∧
      raw.modCond.val = (w.extractLsb' 28 4).toNat ∧ raw.imm32 = w.extractLsb' 32 32

/-- R132's last sentence, R127, R128, R217 and R227: whatever the raw instruction, the compile engine lowers it to a
legal word, of its own class unless it is a degenerate ISWAP_R or IMUL_RCP, which becomes a NOP with every field 0. `dst`
and `src` are the raw ones, reduced modulo 4 where they name one of four floating registers, `creg` for CBRANCH, and 0
where the opcode ignores them; `loc` is R128's; `shift` is IADD_RS's alone. -/
def Obligations.LoweredWordsAreLegal : Prop :=
  ∀ (raw : RawInstr) (creg : Fin 8),
    let i := lower raw creg
    let window : Loc := if raw.modMem = 0 then .l2 else .l1
    let degenerate : Prop :=
      (raw.cls = .iswapR ∧ raw.src = raw.dst) ∨
      (raw.cls = .imulRcp ∧ (raw.imm32 = 0 ∨ ∃ k : Nat, raw.imm32.toNat = 2 ^ k))
    i.wellFormed = true ∧ (i.opcode = 29 ↔ degenerate) ∧
    (degenerate → i = .nop ⟨0, 0, .file, 0, 0, 0, 0⟩) ∧
    (¬degenerate → RawClass.all[i.opcode]? = some raw.cls ∧
      i.fields.dst.val =
        (if raw.cls = .cbranch then creg.val
         else if raw.cls = .cfround then 0
         else if raw.cls ∈ [RawClass.faddR, .faddM, .fsubR, .fsubM, .fscalR, .fmulR, .fdivM, .fsqrtR] then
           raw.dst.val % 4
         else raw.dst.val) ∧
      i.fields.src.val =
        (if raw.cls ∈ [RawClass.imulRcp, .inegR, .fswapR, .fscalR, .fsqrtR, .cbranch] then 0
         else if raw.cls ∈ [RawClass.faddR, .fsubR, .fmulR] then raw.src.val % 4
         else raw.src.val) ∧
      i.fields.loc =
        (if raw.cls ∈ [RawClass.iaddM, .isubM, .imulM, .imulhM, .ismulhM, .ixorM] then
           (if raw.src = raw.dst then .l3 else window)
         else if raw.cls ∈ [RawClass.faddM, .fsubM, .fdivM] then window
         else if raw.cls = .istore then (if 14 ≤ raw.modCond.val then .l3 else window)
         else .file) ∧
      i.fields.shift = (if raw.cls = .iaddRs then raw.modShift else 0))

/-! ### Invariants every step keeps -/

/-- The memories stay in canonical form and inside their buffers (R81, R83), for a state whose round addresses are
rows of the scratchpad (`BatchInv`). -/
def Obligations.StepKeepsMemoryInv : Prop :=
  ∀ s t : State, BatchInv s → MemoryInv s → step s = .next t → MemoryInv t

/-- `ma` stays an aligned offset below 2 GiB, the dataset offset a multiple of 64 in its range, and the selectors
their registers (R39, R41, R43, R96). -/
def Obligations.StepKeepsAddressInv : Prop :=
  ∀ s t : State, AddressInv s → step s = .next t → AddressInv t

/-- Between groups every lane agrees with the instance and requests nothing, and `pc` does not pass the program's end
(R53, R48, R412). -/
def Obligations.StepKeepsLaneInv : Prop :=
  ∀ s t : State, LaneInv s → step s = .next t → LaneInv t

/-- While a batch runs, its program is there, the round is below `NUM_ITER`, F and E have values after seeding, and
the round's addresses are rows of the scratchpad (R37, R50, R51, R250). -/
def Obligations.StepKeepsBatchInv : Prop :=
  ∀ s t : State, BatchInv s → step s = .next t → BatchInv t

/-- Group E never holds a negative number or a NaN, the exponent masks keep R42's shape and group A stays positive
(D24, R42, R173, R342). -/
def Obligations.StepKeepsGroupEInv : Prop :=
  ∀ s t : State, GroupEInv s → step s = .next t → GroupEInv t

/-- The immediates never pass 192 entries nor the program 256 words (R46, R47, R220, R229). -/
def Obligations.StepKeepsCapacityInv : Prop :=
  ∀ s t : State, CapacityInv s → step s = .next t → CapacityInv t

/-! ### Memory -/

/-- R13, R84: a word is the sum of its bytes, least significant first; it reads back as it was stored, words apart from
it read as before; and two canonical memories that read alike are the same memory. -/
def Obligations.MemoryWords : Prop :=
  (∀ (m : Memory) (a : Nat),
    (m.readWord a).toNat = ∑ k ∈ Finset.range 8, (m.read (a + k)).toNat * 2 ^ (8 * k)) ∧
  (∀ (m : Memory) (a b : Nat) (v : Word64), m.wf = true →
    (m.writeWord a v).readWord a = v ∧
    (b + 8 ≤ a ∨ a + 8 ≤ b → (m.writeWord a v).readWord b = m.readWord b)) ∧
  (∀ m k : Memory, m.wf = true → k.wf = true → (∀ a : Nat, m.read a = k.read a) → m = k)

/-- R86, R87, R88: an effective address is the wrapped sum, or the immediate alone, reduced to the window and rounded
down to a multiple of 8; the row mask rounds down to a multiple of 64 of the scratchpad. -/
def Obligations.EffectiveAddresses : Prop :=
  (∀ (base : Word64) (imm : Word32),
    effAddr base imm .l1 = (base + imm.signExtend 64).toNat % 16384 / 8 * 8 ∧
    effAddr base imm .l2 = (base + imm.signExtend 64).toNat % 262144 / 8 * 8 ∧
    effAddr base imm .l3 = (base + imm.signExtend 64).toNat % 2097152 / 8 * 8) ∧
  (∀ imm : Word32, effAddrImm imm = imm.toNat % 2097152 / 8 * 8) ∧
  (∀ x : Word32, (x &&& rowMask).toNat = x.toNat % 2097152 / 64 * 64)

/-- R38, R97, R98: where each register, immediate entry, program word and scalar field stands in the VM-state
buffer. -/
def Obligations.VmStateLayout : Prop :=
  ∀ (s : State) (b : Nat), b < 8 →
    (∀ k : Fin 8, s.vmByte (8 * k.val + b) = some ((s.reg k).extractLsb' (8 * b) 8)) ∧
    (∀ k : Fin 4,
      s.vmByte (64 + 16 * k.val + b) = some ((s.fReg k).lo.extractLsb' (8 * b) 8) ∧
      s.vmByte (64 + 16 * k.val + 8 + b) = some ((s.fReg k).hi.extractLsb' (8 * b) 8) ∧
      s.vmByte (128 + 16 * k.val + b) = some ((s.eReg k).lo.extractLsb' (8 * b) 8) ∧
      s.vmByte (128 + 16 * k.val + 8 + b) = some ((s.eReg k).hi.extractLsb' (8 * b) 8) ∧
      s.vmByte (192 + 16 * k.val + b) = some ((s.aReg k).lo.extractLsb' (8 * b) 8) ∧
      s.vmByte (192 + 16 * k.val + 8 + b) = some ((s.aReg k).hi.extractLsb' (8 * b) 8) ∧
      s.vmByte (2056 + k.val) = some (BitVec.ofNat 8 (8 * (s.readReg.get k).val))) ∧
    (b < 4 →
      (∀ (k : Nat) (v : Word32), k < 192 → s.imm[k]? = some v →
        s.vmByte (256 + 4 * k + b) = some (v.extractLsb' (8 * b) 8)) ∧
      (∀ (k : Nat) (v : Word32), k < 256 → s.prog[k]? = some v →
        s.vmByte (1024 + 4 * k + b) = some (v.extractLsb' (8 * b) 8)) ∧
      s.vmByte (2048 + b) = some (s.ma.extractLsb' (8 * b) 8) ∧
      s.vmByte (2052 + b) = some (s.mx.extractLsb' (8 * b) 8) ∧
      s.vmByte (2088 + b) = some (s.spAddr0.extractLsb' (8 * b) 8) ∧
      s.vmByte (2092 + b) = some (s.spAddr1.extractLsb' (8 * b) 8)) ∧
    s.vmByte 2060 = some (s.fprc.zeroExtend 8) ∧ s.vmByte 2061 = none ∧
    (s.progLen ≤ 256 →
      s.vmByte 2062 = some (BitVec.ofNat 8 s.progLen) ∧ s.vmByte 2063 = some (BitVec.ofNat 8 (s.progLen / 256))) ∧
    s.vmByte (2064 + b) = some (s.eMask0.extractLsb' (8 * b) 8) ∧
    s.vmByte (2072 + b) = some (s.eMask1.extractLsb' (8 * b) 8) ∧
    s.vmByte (2080 + b) = some (s.datasetOffset.extractLsb' (8 * b) 8) ∧
    ∀ off : Nat, 2096 ≤ off → s.vmByte off = none

/-! ### The compile engine -/

/-- R172–R179: what the decoder gives every field, and that it leaves `fprc` and writes no other register; a small
positive float is a normal number in [1, 2^32), and an exponent mask has R42's shape. The frame says more than those
rules: that what R451 gives no value at a program start (`pc`, `phase`, `round`, the round's addresses, the lanes, F and
E) keeps what it held, and that `imm` and `prog` become empty, are the model's choices (log 30), and so is the stage the
compile engine is at next (log 8). -/
def Obligations.DecoderConstants : Prop :=
  (∀ s : State, s.params.ok = true → s.fault = none → s.agent = .compile .decode →
    ∃ t, step s = .next t ∧
      (∀ k : Fin 8, t.reg k = 0) ∧
      (∀ k : Fin 4,
        (t.aReg k).lo = smallPositiveFloat (s.entropy.readWord (16 * k.val)) ∧
        (t.aReg k).hi = smallPositiveFloat (s.entropy.readWord (16 * k.val + 8)) ∧
        (t.readReg.get k).val = 2 * k.val + ((s.entropy.readWord 80).extractLsb' k.val 1).toNat) ∧
      t.ma = (s.entropy.readWord 64).extractLsb' 0 32 &&& 0x7FFFFFC0 ∧
      t.mx = (s.entropy.readWord 72).extractLsb' 0 32 ∧
      t.datasetOffset = BitVec.ofNat 64 ((s.entropy.readWord 88).toNat % (s.params.datasetExtraItems + 1) * 64) ∧
      t.eMask0 = exponentMask (s.entropy.readWord 96) ∧ t.eMask1 = exponentMask (s.entropy.readWord 104) ∧
      t.fprc = s.fprc ∧ t.f = s.f ∧ t.e = s.e ∧ t.decoded = true ∧ t.seeded = false ∧
      t = { s with
            r := t.r, a := t.a, ma := t.ma, mx := t.mx, readReg := t.readReg, eMask0 := t.eMask0,
            eMask1 := t.eMask1, datasetOffset := t.datasetOffset, decoded := t.decoded, seeded := t.seeded,
            compiler := .initial, imm := [], prog := [], agent := .compile (.pass1 0) }) ∧
  (∀ x : Word64,
    smallPositiveFloat x = (((x >>> 59) + 1023) &&& 0x7FF) <<< 52 ||| (x &&& 0xFFFFFFFFFFFFF) ∧
    (∃ q, fpRat (smallPositiveFloat x) = some q ∧ 1 ≤ q ∧ q < 2 ^ 32) ∧
    exponentMask x = (x &&& 0x3FFFFF) ||| (0x300 ||| (x >>> 60) <<< 4) <<< 52 ∧
    isExponentMask (exponentMask x) = true)

/-- R203, R204, R205, R207: a CBRANCH takes the register with the least key, ties by usage and then by index, or the
raw field's under the other rule; it counts the choice, targets the instruction after that register's last write, or
0, and then marks every register as written at its own index. -/
def Obligations.ConditionRegisterSelection : Prop :=
  ∀ (p : Params) (i : Nat) (raw : RawInstr) (c : Compiler), raw.cls = .cbranch →
    let creg := cregOf p c.hist raw
    let d := c.pass1 p i raw
    let key : Fin 8 → Int := fun j => if (c.hist.get j).written then (c.hist.get j).lastWrite else -1
    let usage : Fin 8 → Nat := fun j => (c.hist.get j).usage
    (p.cregRule = .select →
      (∀ j : Fin 8, key creg < key j ∨
        (key creg = key j ∧ (usage creg < usage j ∨ (usage creg = usage j ∧ creg ≤ j)))) ∧
      ∀ j : Fin 8, (d.hist.get j).usage = usage j + (if j = creg then 1 else 0)) ∧
    (p.cregRule = .dstField → creg = raw.dst ∧ ∀ j : Fin 8, (d.hist.get j).usage = usage j) ∧
    d.branches = ⟨i, creg,
      if (c.hist.get creg).written then ((c.hist.get creg).lastWrite + 1).toNat else 0⟩ :: c.branches ∧
    (∀ j : Fin 8, (d.hist.get j).lastWrite = i ∧ (d.hist.get j).written = true) ∧
    (lower raw creg).fields.dst = creg ∧
    d = { c with hist := d.hist, branches := d.branches }

/-- R205, R206: after pass 1 over any program, a CBRANCH's target is not above it, and no instruction from the target
up to the branch changes its condition register. -/
def Obligations.BranchRangeKeepsItsRegister : Prop :=
  ∀ (p : Params) (raws : List RawInstr) (b : Branch), b ∈ (passOneAfter p raws raws.length).branches →
    b.idx < raws.length ∧ b.target ≤ b.idx ∧
    ∀ (m : Nat) (raw : RawInstr), b.target ≤ m → m < b.idx → raws[m]? = some raw → ¬RawWrites raw b.creg

/-- R218: the long division gives the floor of 2^(63+k) / d, `k` the bit length of the divisor, and the constant lies
strictly between 2^63 and 2^64; it is stored in two entries, low word first. -/
def Obligations.ReciprocalIsFloor : Prop :=
  ∀ (d : Word32) (k : Nat), 2 ^ (k - 1) < d.toNat → d.toNat < 2 ^ k → 3 ≤ d.toNat →
    (reciprocal d).toNat = 2 ^ (63 + k) / d.toNat ∧ 2 ^ 63 < (reciprocal d).toNat ∧
    ∀ raw : RawInstr, raw.cls = .imulRcp → raw.imm32 = d →
      immEntries raw = [(reciprocal d).extractLsb' 0 32, (reciprocal d).extractLsb' 32 32]

/-- R219: bit `b` is set, bit `b − 1` is clear, every other bit is the sign-extended immediate's; one entry holds it
exactly; the second entry packs `b` above a 16-bit target. -/
def Obligations.BranchImmediate : Prop :=
  (∀ raw : RawInstr,
    let b := raw.modCond.val + 8
    (∀ k : Nat, k < 64 → (cbranchImm raw).getLsbD k =
      if k = b then true else if k = b - 1 then false else (raw.imm32.signExtend 64).getLsbD k) ∧
    ((cbranchImm raw).extractLsb' 0 32).signExtend 64 = cbranchImm raw) ∧
  (∀ b target : Nat, b < 32 → target < 65536 →
    bitField (cbranchEntry b target).toNat 0 16 = target ∧ bitField (cbranchEntry b target).toNat 16 5 = b ∧
    bitField (cbranchEntry b target).toNat 21 11 = 0)

/-- R211, R213, R214, R215, R225: pass 2 keeps a legal schedule legal, and a program with nothing placed is one. The
invariant also holds the tracker's figures that keep it so. -/
def Obligations.ScheduleStaysLegal : Prop :=
  (∀ (p : Params) (c d : Compiler) (instrs : List Instr) (imm imm' : List Word32) (raw : RawInstr), p.ok = true →
    ScheduleInv p.w instrs c → c.pass2 p imm instrs.length raw = .ok (d, imm') →
    ScheduleInv p.w (instrs ++ [lower raw (c.cregAt instrs.length)]) d) ∧
  (∀ (w : Nat) (hist : Bank8 RegHist) (branches : List Branch),
    ScheduleInv w [] { Compiler.initial with hist := hist, branches := branches })

/-- R220, R223: the entries of an instruction go at the end of the immediates and its word's index is the first of
them; past 192 the compile faults at that instruction; the placement search never exhausts its cap on a legal schedule
of fewer than 257 instructions. R129: which entries each class has; the target in CBRANCH's second entry is 0 until the
emission fills it in (log 29). -/
def Obligations.ImmediatesAndPlacement : Prop :=
  (∀ (p : Params) (c : Compiler) (instrs : List Instr) (imm : List Word32) (raw : RawInstr), p.ok = true →
    ScheduleInv p.w instrs c → instrs.length < 257 →
    let entries := immEntries raw
    (192 < imm.length + entries.length →
      c.pass2 p imm instrs.length raw = .error (.immOverflow instrs.length)) ∧
    (imm.length + entries.length ≤ 192 →
      ∃ d cyc, c.pass2 p imm instrs.length raw = .ok (d, imm ++ entries) ∧
        d.placed = c.placed ++ [⟨cyc, if entries = [] then 0 else imm.length⟩])) ∧
  (∀ raw : RawInstr,
    (raw.cls = .iaddRs → immEntries raw = if raw.dst = 5 then [raw.imm32] else []) ∧
    (raw.cls ∈ [RawClass.isubR, .imulR, .ixorR, .irorR, .irolR] →
      immEntries raw = if raw.src = raw.dst then [raw.imm32] else []) ∧
    (raw.cls ∈ [RawClass.iaddM, .isubM, .imulM, .imulhM, .ismulhM, .ixorM, .faddM, .fsubM, .fdivM, .istore, .cfround] →
      immEntries raw = [raw.imm32]) ∧
    (raw.cls = .imulRcp → (raw.imm32 = 0 ∨ ∃ k : Nat, raw.imm32.toNat = 2 ^ k) → immEntries raw = []) ∧
    (raw.cls = .imulRcp → raw.imm32 ≠ 0 → (∀ k : Nat, raw.imm32.toNat ≠ 2 ^ k) →
      immEntries raw = [(reciprocal raw.imm32).extractLsb' 0 32, (reciprocal raw.imm32).extractLsb' 32 32]) ∧
    (raw.cls = .cbranch → ∃ second : Word32,
      immEntries raw = [(cbranchImm raw).extractLsb' 0 32, second] ∧
      bitField second.toNat 21 11 = 0 ∧ bitField second.toNat 16 5 = raw.modCond.val + 8 ∧
      bitField second.toNat 0 16 = 0) ∧
    (raw.cls ∈ [RawClass.imulhR, .ismulhR, .inegR, .iswapR, .fswapR, .faddR, .fsubR, .fscalR, .fmulR, .fsqrtR] →
      immEntries raw = []))

/-- R226–R230. Emission of a compile whose placements are legal: one word for each raw instruction, in rising cycles, the
floating ones of a cycle first, and otherwise in program order; each decodes to the instruction the raw one becomes,
with its first immediate entry and with the counts of its cycle as `n` and `nf`; each CBRANCH's second entry takes the
index of the first word of its target's cycle, and no other entry changes. The premise is `CompileInv`'s at emission,
which every step keeps; the helper that sorts the placed instructions loses and adds none. -/
def Obligations.EmissionOrder : Prop :=
  (∀ (s : State) (raws : List RawInstr), s.params.ok = true → s.fault = none → s.agent = .compile .emit →
    CompiledSoFar s raws → raws.length ≤ 256 →
    let c := s.compiler
    let instrs := loweredProgram c raws
    ∃ (t : State) (order : List Nat), step s = .next t ∧
      t = { s with prog := t.prog, imm := t.imm, agent := .host } ∧
      order.Perm (List.range raws.length) ∧ order.Pairwise (EmittedBefore c instrs) ∧
      t.progLen = raws.length ∧
      (∀ (m k : Nat) (i : Instr) (q : Placed), order[m]? = some k → instrs[k]? = some i → c.placed[k]? = some q →
        let group := inCycle c raws.length q.cycle
        ∃ (word : Word32) (w : Fields), t.prog[m]? = some word ∧ decodeWord word = .ok (i.withFields w) ∧
          w.dst = i.fields.dst ∧ w.src = i.fields.src ∧ w.loc = i.fields.loc ∧ w.shift = i.fields.shift ∧
          w.immIdx.val = q.immIdx ∧ w.n.val = group.length ∧
          w.nf.val = (group.filter fun j => (instrs[j]?).elim false Instr.isFloat).length) ∧
      t.imm.length = s.imm.length ∧
      (∀ (b : Branch) (q : Placed) (raw : RawInstr), b ∈ c.branches → c.placed[b.idx]? = some q →
        raws[b.idx]? = some raw →
        ∃ m k, order[m]? = some k ∧ c.cycleOf k = c.cycleOf b.target ∧
          (∀ m' k', m' < m → order[m']? = some k' → c.cycleOf k' ≠ c.cycleOf b.target) ∧
          t.imm[q.immIdx + 1]? = some (cbranchEntry (cbranchBit raw) m)) ∧
      (∀ e : Nat, (∀ b ∈ c.branches, ∀ q, c.placed[b.idx]? = some q → e ≠ q.immIdx + 1) →
        t.imm[e]? = s.imm[e]?)) ∧
  (∀ s t : State, CompileInv s → step s = .next t → CompileInv t) ∧
  (∀ l : List Emitted, (l.map (·.idx)).Nodup →
    (sortEmitted l).Perm l ∧
    (sortEmitted l).Pairwise (fun x y => x.cycle < y.cycle ∨
      (x.cycle = y.cycle ∧ ((x.instr.isFloat = true ∧ y.instr.isFloat = false) ∨
        (x.instr.isFloat = y.instr.isFloat ∧ x.idx < y.idx)))))

end
end

