-- ==== Sys2Proof/Laws/State.lean ====
section
/-! SUPPORT. One lemma per field per update of the state, each true by definition, so that no proof unfolds a record
update; and what the register banks and the register reads give after a write. -/

namespace Sys2Proof.Machine

/-! ### Register banks -/

@[simp] theorem Bank8.get_set_same {α : Type} (b : Bank8 α) (j : Fin 8) (v : α) : (b.set j v).get j = v := by
  fin_cases j <;> rfl

theorem Bank8.get_set_of_ne {α : Type} (b : Bank8 α) {i j : Fin 8} (v : α) (h : i ≠ j) :
    (b.set j v).get i = b.get i := by
  fin_cases j <;> fin_cases i <;> first | rfl | exact absurd rfl h

@[simp] theorem Bank8.set_get_self {α : Type} (b : Bank8 α) (j : Fin 8) : b.set j (b.get j) = b := by
  fin_cases j <;> rfl

@[simp] theorem Bank8.get_ofFn {α : Type} (g : Fin 8 → α) (j : Fin 8) : (Bank8.ofFn g).get j = g j := by
  fin_cases j <;> rfl

/-- Two banks that read alike are the same bank. -/
theorem Bank8.ext_get {α : Type} {b c : Bank8 α} (h : ∀ j : Fin 8, b.get j = c.get j) : b = c := by
  obtain ⟨b0, b1, b2, b3, b4, b5, b6, b7⟩ := b
  obtain ⟨c0, c1, c2, c3, c4, c5, c6, c7⟩ := c
  have h0 := h 0; have h1 := h 1; have h2 := h 2; have h3 := h 3
  have h4 := h 4; have h5 := h 5; have h6 := h 6; have h7 := h 7
  simp only [Bank8.get] at h0 h1 h2 h3 h4 h5 h6 h7
  simp [h0, h1, h2, h3, h4, h5, h6, h7]

@[simp] theorem Bank4.get_set_same {α : Type} (b : Bank4 α) (j : Fin 4) (v : α) : (b.set j v).get j = v := by
  fin_cases j <;> rfl

theorem Bank4.get_set_of_ne {α : Type} (b : Bank4 α) {i j : Fin 4} (v : α) (h : i ≠ j) :
    (b.set j v).get i = b.get i := by
  fin_cases j <;> fin_cases i <;> first | rfl | exact absurd rfl h

@[simp] theorem Bank4.set_get_self {α : Type} (b : Bank4 α) (j : Fin 4) : b.set j (b.get j) = b := by
  fin_cases j <;> rfl

@[simp] theorem Bank4.get_ofFn {α : Type} (g : Fin 4 → α) (j : Fin 4) : (Bank4.ofFn g).get j = g j := by
  fin_cases j <;> rfl

/-- Two banks that read alike are the same bank. -/
theorem Bank4.ext_get {α : Type} {b c : Bank4 α} (h : ∀ j : Fin 4, b.get j = c.get j) : b = c := by
  obtain ⟨b0, b1, b2, b3⟩ := b
  obtain ⟨c0, c1, c2, c3⟩ := c
  have h0 := h 0; have h1 := h 1; have h2 := h 2; have h3 := h 3
  simp only [Bank4.get] at h0 h1 h2 h3
  simp [h0, h1, h2, h3]

@[simp] theorem FReg.half_ofHalves (g : Half → Word64) (h : Half) : (FReg.ofHalves g).half h = g h := by
  cases h <;> rfl

/-! ### `setReg` -/

@[simp] theorem State.setReg_r (s : State) (j : Fin 8) (v : Word64) : (s.setReg j v).r = s.r.set j v := rfl

@[simp] theorem State.setReg_f (s : State) (j : Fin 8) (v : Word64) : (s.setReg j v).f = s.f := rfl

@[simp] theorem State.setReg_e (s : State) (j : Fin 8) (v : Word64) : (s.setReg j v).e = s.e := rfl

@[simp] theorem State.setReg_a (s : State) (j : Fin 8) (v : Word64) : (s.setReg j v).a = s.a := rfl

@[simp] theorem State.setReg_ma (s : State) (j : Fin 8) (v : Word64) : (s.setReg j v).ma = s.ma := rfl

@[simp] theorem State.setReg_mx (s : State) (j : Fin 8) (v : Word64) : (s.setReg j v).mx = s.mx := rfl

@[simp] theorem State.setReg_readReg (s : State) (j : Fin 8) (v : Word64) :
    (s.setReg j v).readReg = s.readReg := rfl

@[simp] theorem State.setReg_eMask0 (s : State) (j : Fin 8) (v : Word64) : (s.setReg j v).eMask0 = s.eMask0 := rfl

@[simp] theorem State.setReg_eMask1 (s : State) (j : Fin 8) (v : Word64) : (s.setReg j v).eMask1 = s.eMask1 := rfl

@[simp] theorem State.setReg_datasetOffset (s : State) (j : Fin 8) (v : Word64) :
    (s.setReg j v).datasetOffset = s.datasetOffset := rfl

@[simp] theorem State.setReg_fprc (s : State) (j : Fin 8) (v : Word64) : (s.setReg j v).fprc = s.fprc := rfl

@[simp] theorem State.setReg_imm (s : State) (j : Fin 8) (v : Word64) : (s.setReg j v).imm = s.imm := rfl

@[simp] theorem State.setReg_prog (s : State) (j : Fin 8) (v : Word64) : (s.setReg j v).prog = s.prog := rfl

@[simp] theorem State.setReg_pc (s : State) (j : Fin 8) (v : Word64) : (s.setReg j v).pc = s.pc := rfl

@[simp] theorem State.setReg_phase (s : State) (j : Fin 8) (v : Word64) : (s.setReg j v).phase = s.phase := rfl

@[simp] theorem State.setReg_round (s : State) (j : Fin 8) (v : Word64) : (s.setReg j v).round = s.round := rfl

@[simp] theorem State.setReg_spAddr0 (s : State) (j : Fin 8) (v : Word64) :
    (s.setReg j v).spAddr0 = s.spAddr0 := rfl

@[simp] theorem State.setReg_spAddr1 (s : State) (j : Fin 8) (v : Word64) :
    (s.setReg j v).spAddr1 = s.spAddr1 := rfl

@[simp] theorem State.setReg_first (s : State) (j : Fin 8) (v : Word64) : (s.setReg j v).first = s.first := rfl

@[simp] theorem State.setReg_last (s : State) (j : Fin 8) (v : Word64) : (s.setReg j v).last = s.last := rfl

@[simp] theorem State.setReg_numIter (s : State) (j : Fin 8) (v : Word64) :
    (s.setReg j v).numIter = s.numIter := rfl

@[simp] theorem State.setReg_lanes (s : State) (j : Fin 8) (v : Word64) : (s.setReg j v).lanes = s.lanes := rfl

@[simp] theorem State.setReg_fault (s : State) (j : Fin 8) (v : Word64) : (s.setReg j v).fault = s.fault := rfl

@[simp] theorem State.setReg_scratch (s : State) (j : Fin 8) (v : Word64) :
    (s.setReg j v).scratch = s.scratch := rfl

@[simp] theorem State.setReg_dataset (s : State) (j : Fin 8) (v : Word64) :
    (s.setReg j v).dataset = s.dataset := rfl

@[simp] theorem State.setReg_entropy (s : State) (j : Fin 8) (v : Word64) :
    (s.setReg j v).entropy = s.entropy := rfl

@[simp] theorem State.setReg_compiler (s : State) (j : Fin 8) (v : Word64) :
    (s.setReg j v).compiler = s.compiler := rfl

@[simp] theorem State.setReg_params (s : State) (j : Fin 8) (v : Word64) : (s.setReg j v).params = s.params := rfl

@[simp] theorem State.setReg_agent (s : State) (j : Fin 8) (v : Word64) : (s.setReg j v).agent = s.agent := rfl

@[simp] theorem State.setReg_hostQueue (s : State) (j : Fin 8) (v : Word64) :
    (s.setReg j v).hostQueue = s.hostQueue := rfl

@[simp] theorem State.setReg_decoded (s : State) (j : Fin 8) (v : Word64) :
    (s.setReg j v).decoded = s.decoded := rfl

@[simp] theorem State.setReg_seeded (s : State) (j : Fin 8) (v : Word64) : (s.setReg j v).seeded = s.seeded := rfl

@[simp] theorem State.setReg_issue (s : State) (j : Fin 8) (v : Word64) : (s.setReg j v).issue = s.issue := rfl

@[simp] theorem State.setReg_output (s : State) (j : Fin 8) (v : Word64) : (s.setReg j v).output = s.output := rfl

/-! ### `setFReg` -/

@[simp] theorem State.setFReg_r (s : State) (j : Fin 4) (v : FReg) : (s.setFReg j v).r = s.r := rfl

@[simp] theorem State.setFReg_f (s : State) (j : Fin 4) (v : FReg) : (s.setFReg j v).f = s.f.set j v := rfl

@[simp] theorem State.setFReg_e (s : State) (j : Fin 4) (v : FReg) : (s.setFReg j v).e = s.e := rfl

@[simp] theorem State.setFReg_a (s : State) (j : Fin 4) (v : FReg) : (s.setFReg j v).a = s.a := rfl

@[simp] theorem State.setFReg_ma (s : State) (j : Fin 4) (v : FReg) : (s.setFReg j v).ma = s.ma := rfl

@[simp] theorem State.setFReg_mx (s : State) (j : Fin 4) (v : FReg) : (s.setFReg j v).mx = s.mx := rfl

@[simp] theorem State.setFReg_readReg (s : State) (j : Fin 4) (v : FReg) :
    (s.setFReg j v).readReg = s.readReg := rfl

@[simp] theorem State.setFReg_eMask0 (s : State) (j : Fin 4) (v : FReg) : (s.setFReg j v).eMask0 = s.eMask0 := rfl

@[simp] theorem State.setFReg_eMask1 (s : State) (j : Fin 4) (v : FReg) : (s.setFReg j v).eMask1 = s.eMask1 := rfl

@[simp] theorem State.setFReg_datasetOffset (s : State) (j : Fin 4) (v : FReg) :
    (s.setFReg j v).datasetOffset = s.datasetOffset := rfl

@[simp] theorem State.setFReg_fprc (s : State) (j : Fin 4) (v : FReg) : (s.setFReg j v).fprc = s.fprc := rfl

@[simp] theorem State.setFReg_imm (s : State) (j : Fin 4) (v : FReg) : (s.setFReg j v).imm = s.imm := rfl

@[simp] theorem State.setFReg_prog (s : State) (j : Fin 4) (v : FReg) : (s.setFReg j v).prog = s.prog := rfl

@[simp] theorem State.setFReg_pc (s : State) (j : Fin 4) (v : FReg) : (s.setFReg j v).pc = s.pc := rfl

@[simp] theorem State.setFReg_phase (s : State) (j : Fin 4) (v : FReg) : (s.setFReg j v).phase = s.phase := rfl

@[simp] theorem State.setFReg_round (s : State) (j : Fin 4) (v : FReg) : (s.setFReg j v).round = s.round := rfl

@[simp] theorem State.setFReg_spAddr0 (s : State) (j : Fin 4) (v : FReg) :
    (s.setFReg j v).spAddr0 = s.spAddr0 := rfl

@[simp] theorem State.setFReg_spAddr1 (s : State) (j : Fin 4) (v : FReg) :
    (s.setFReg j v).spAddr1 = s.spAddr1 := rfl

@[simp] theorem State.setFReg_first (s : State) (j : Fin 4) (v : FReg) : (s.setFReg j v).first = s.first := rfl

@[simp] theorem State.setFReg_last (s : State) (j : Fin 4) (v : FReg) : (s.setFReg j v).last = s.last := rfl

@[simp] theorem State.setFReg_numIter (s : State) (j : Fin 4) (v : FReg) :
    (s.setFReg j v).numIter = s.numIter := rfl

@[simp] theorem State.setFReg_lanes (s : State) (j : Fin 4) (v : FReg) : (s.setFReg j v).lanes = s.lanes := rfl

@[simp] theorem State.setFReg_fault (s : State) (j : Fin 4) (v : FReg) : (s.setFReg j v).fault = s.fault := rfl

@[simp] theorem State.setFReg_scratch (s : State) (j : Fin 4) (v : FReg) :
    (s.setFReg j v).scratch = s.scratch := rfl

@[simp] theorem State.setFReg_dataset (s : State) (j : Fin 4) (v : FReg) :
    (s.setFReg j v).dataset = s.dataset := rfl

@[simp] theorem State.setFReg_entropy (s : State) (j : Fin 4) (v : FReg) :
    (s.setFReg j v).entropy = s.entropy := rfl

@[simp] theorem State.setFReg_compiler (s : State) (j : Fin 4) (v : FReg) :
    (s.setFReg j v).compiler = s.compiler := rfl

@[simp] theorem State.setFReg_params (s : State) (j : Fin 4) (v : FReg) : (s.setFReg j v).params = s.params := rfl

@[simp] theorem State.setFReg_agent (s : State) (j : Fin 4) (v : FReg) : (s.setFReg j v).agent = s.agent := rfl

@[simp] theorem State.setFReg_hostQueue (s : State) (j : Fin 4) (v : FReg) :
    (s.setFReg j v).hostQueue = s.hostQueue := rfl

@[simp] theorem State.setFReg_decoded (s : State) (j : Fin 4) (v : FReg) :
    (s.setFReg j v).decoded = s.decoded := rfl

@[simp] theorem State.setFReg_seeded (s : State) (j : Fin 4) (v : FReg) : (s.setFReg j v).seeded = s.seeded := rfl

@[simp] theorem State.setFReg_issue (s : State) (j : Fin 4) (v : FReg) : (s.setFReg j v).issue = s.issue := rfl

@[simp] theorem State.setFReg_output (s : State) (j : Fin 4) (v : FReg) : (s.setFReg j v).output = s.output := rfl

/-! ### `setEReg` -/

@[simp] theorem State.setEReg_r (s : State) (j : Fin 4) (v : FReg) : (s.setEReg j v).r = s.r := rfl

@[simp] theorem State.setEReg_f (s : State) (j : Fin 4) (v : FReg) : (s.setEReg j v).f = s.f := rfl

@[simp] theorem State.setEReg_e (s : State) (j : Fin 4) (v : FReg) : (s.setEReg j v).e = s.e.set j v := rfl

@[simp] theorem State.setEReg_a (s : State) (j : Fin 4) (v : FReg) : (s.setEReg j v).a = s.a := rfl

@[simp] theorem State.setEReg_ma (s : State) (j : Fin 4) (v : FReg) : (s.setEReg j v).ma = s.ma := rfl

@[simp] theorem State.setEReg_mx (s : State) (j : Fin 4) (v : FReg) : (s.setEReg j v).mx = s.mx := rfl

@[simp] theorem State.setEReg_readReg (s : State) (j : Fin 4) (v : FReg) :
    (s.setEReg j v).readReg = s.readReg := rfl

@[simp] theorem State.setEReg_eMask0 (s : State) (j : Fin 4) (v : FReg) : (s.setEReg j v).eMask0 = s.eMask0 := rfl

@[simp] theorem State.setEReg_eMask1 (s : State) (j : Fin 4) (v : FReg) : (s.setEReg j v).eMask1 = s.eMask1 := rfl

@[simp] theorem State.setEReg_datasetOffset (s : State) (j : Fin 4) (v : FReg) :
    (s.setEReg j v).datasetOffset = s.datasetOffset := rfl

@[simp] theorem State.setEReg_fprc (s : State) (j : Fin 4) (v : FReg) : (s.setEReg j v).fprc = s.fprc := rfl

@[simp] theorem State.setEReg_imm (s : State) (j : Fin 4) (v : FReg) : (s.setEReg j v).imm = s.imm := rfl

@[simp] theorem State.setEReg_prog (s : State) (j : Fin 4) (v : FReg) : (s.setEReg j v).prog = s.prog := rfl

@[simp] theorem State.setEReg_pc (s : State) (j : Fin 4) (v : FReg) : (s.setEReg j v).pc = s.pc := rfl

@[simp] theorem State.setEReg_phase (s : State) (j : Fin 4) (v : FReg) : (s.setEReg j v).phase = s.phase := rfl

@[simp] theorem State.setEReg_round (s : State) (j : Fin 4) (v : FReg) : (s.setEReg j v).round = s.round := rfl

@[simp] theorem State.setEReg_spAddr0 (s : State) (j : Fin 4) (v : FReg) :
    (s.setEReg j v).spAddr0 = s.spAddr0 := rfl

@[simp] theorem State.setEReg_spAddr1 (s : State) (j : Fin 4) (v : FReg) :
    (s.setEReg j v).spAddr1 = s.spAddr1 := rfl

@[simp] theorem State.setEReg_first (s : State) (j : Fin 4) (v : FReg) : (s.setEReg j v).first = s.first := rfl

@[simp] theorem State.setEReg_last (s : State) (j : Fin 4) (v : FReg) : (s.setEReg j v).last = s.last := rfl

@[simp] theorem State.setEReg_numIter (s : State) (j : Fin 4) (v : FReg) :
    (s.setEReg j v).numIter = s.numIter := rfl

@[simp] theorem State.setEReg_lanes (s : State) (j : Fin 4) (v : FReg) : (s.setEReg j v).lanes = s.lanes := rfl

@[simp] theorem State.setEReg_fault (s : State) (j : Fin 4) (v : FReg) : (s.setEReg j v).fault = s.fault := rfl

@[simp] theorem State.setEReg_scratch (s : State) (j : Fin 4) (v : FReg) :
    (s.setEReg j v).scratch = s.scratch := rfl

@[simp] theorem State.setEReg_dataset (s : State) (j : Fin 4) (v : FReg) :
    (s.setEReg j v).dataset = s.dataset := rfl

@[simp] theorem State.setEReg_entropy (s : State) (j : Fin 4) (v : FReg) :
    (s.setEReg j v).entropy = s.entropy := rfl

@[simp] theorem State.setEReg_compiler (s : State) (j : Fin 4) (v : FReg) :
    (s.setEReg j v).compiler = s.compiler := rfl

@[simp] theorem State.setEReg_params (s : State) (j : Fin 4) (v : FReg) : (s.setEReg j v).params = s.params := rfl

@[simp] theorem State.setEReg_agent (s : State) (j : Fin 4) (v : FReg) : (s.setEReg j v).agent = s.agent := rfl

@[simp] theorem State.setEReg_hostQueue (s : State) (j : Fin 4) (v : FReg) :
    (s.setEReg j v).hostQueue = s.hostQueue := rfl

@[simp] theorem State.setEReg_decoded (s : State) (j : Fin 4) (v : FReg) :
    (s.setEReg j v).decoded = s.decoded := rfl

@[simp] theorem State.setEReg_seeded (s : State) (j : Fin 4) (v : FReg) : (s.setEReg j v).seeded = s.seeded := rfl

@[simp] theorem State.setEReg_issue (s : State) (j : Fin 4) (v : FReg) : (s.setEReg j v).issue = s.issue := rfl

@[simp] theorem State.setEReg_output (s : State) (j : Fin 4) (v : FReg) : (s.setEReg j v).output = s.output := rfl

/-! ### `spWrite` -/

@[simp] theorem State.spWrite_r (s : State) (a : Nat) (v : Word64) : (s.spWrite a v).r = s.r := rfl

@[simp] theorem State.spWrite_f (s : State) (a : Nat) (v : Word64) : (s.spWrite a v).f = s.f := rfl

@[simp] theorem State.spWrite_e (s : State) (a : Nat) (v : Word64) : (s.spWrite a v).e = s.e := rfl

@[simp] theorem State.spWrite_a (s : State) (a : Nat) (v : Word64) : (s.spWrite a v).a = s.a := rfl

@[simp] theorem State.spWrite_ma (s : State) (a : Nat) (v : Word64) : (s.spWrite a v).ma = s.ma := rfl

@[simp] theorem State.spWrite_mx (s : State) (a : Nat) (v : Word64) : (s.spWrite a v).mx = s.mx := rfl

@[simp] theorem State.spWrite_readReg (s : State) (a : Nat) (v : Word64) :
    (s.spWrite a v).readReg = s.readReg := rfl

@[simp] theorem State.spWrite_eMask0 (s : State) (a : Nat) (v : Word64) : (s.spWrite a v).eMask0 = s.eMask0 := rfl

@[simp] theorem State.spWrite_eMask1 (s : State) (a : Nat) (v : Word64) : (s.spWrite a v).eMask1 = s.eMask1 := rfl

@[simp] theorem State.spWrite_datasetOffset (s : State) (a : Nat) (v : Word64) :
    (s.spWrite a v).datasetOffset = s.datasetOffset := rfl

@[simp] theorem State.spWrite_fprc (s : State) (a : Nat) (v : Word64) : (s.spWrite a v).fprc = s.fprc := rfl

@[simp] theorem State.spWrite_imm (s : State) (a : Nat) (v : Word64) : (s.spWrite a v).imm = s.imm := rfl

@[simp] theorem State.spWrite_prog (s : State) (a : Nat) (v : Word64) : (s.spWrite a v).prog = s.prog := rfl

@[simp] theorem State.spWrite_pc (s : State) (a : Nat) (v : Word64) : (s.spWrite a v).pc = s.pc := rfl

@[simp] theorem State.spWrite_phase (s : State) (a : Nat) (v : Word64) : (s.spWrite a v).phase = s.phase := rfl

@[simp] theorem State.spWrite_round (s : State) (a : Nat) (v : Word64) : (s.spWrite a v).round = s.round := rfl

@[simp] theorem State.spWrite_spAddr0 (s : State) (a : Nat) (v : Word64) :
    (s.spWrite a v).spAddr0 = s.spAddr0 := rfl

@[simp] theorem State.spWrite_spAddr1 (s : State) (a : Nat) (v : Word64) :
    (s.spWrite a v).spAddr1 = s.spAddr1 := rfl

@[simp] theorem State.spWrite_first (s : State) (a : Nat) (v : Word64) : (s.spWrite a v).first = s.first := rfl

@[simp] theorem State.spWrite_last (s : State) (a : Nat) (v : Word64) : (s.spWrite a v).last = s.last := rfl

@[simp] theorem State.spWrite_numIter (s : State) (a : Nat) (v : Word64) :
    (s.spWrite a v).numIter = s.numIter := rfl

@[simp] theorem State.spWrite_lanes (s : State) (a : Nat) (v : Word64) : (s.spWrite a v).lanes = s.lanes := rfl

@[simp] theorem State.spWrite_fault (s : State) (a : Nat) (v : Word64) : (s.spWrite a v).fault = s.fault := rfl

@[simp] theorem State.spWrite_scratch (s : State) (a : Nat) (v : Word64) :
    (s.spWrite a v).scratch = s.scratch.writeWord a v := rfl

@[simp] theorem State.spWrite_dataset (s : State) (a : Nat) (v : Word64) :
    (s.spWrite a v).dataset = s.dataset := rfl

@[simp] theorem State.spWrite_entropy (s : State) (a : Nat) (v : Word64) :
    (s.spWrite a v).entropy = s.entropy := rfl

@[simp] theorem State.spWrite_compiler (s : State) (a : Nat) (v : Word64) :
    (s.spWrite a v).compiler = s.compiler := rfl

@[simp] theorem State.spWrite_params (s : State) (a : Nat) (v : Word64) : (s.spWrite a v).params = s.params := rfl

@[simp] theorem State.spWrite_agent (s : State) (a : Nat) (v : Word64) : (s.spWrite a v).agent = s.agent := rfl

@[simp] theorem State.spWrite_hostQueue (s : State) (a : Nat) (v : Word64) :
    (s.spWrite a v).hostQueue = s.hostQueue := rfl

@[simp] theorem State.spWrite_decoded (s : State) (a : Nat) (v : Word64) :
    (s.spWrite a v).decoded = s.decoded := rfl

@[simp] theorem State.spWrite_seeded (s : State) (a : Nat) (v : Word64) : (s.spWrite a v).seeded = s.seeded := rfl

@[simp] theorem State.spWrite_issue (s : State) (a : Nat) (v : Word64) : (s.spWrite a v).issue = s.issue := rfl

@[simp] theorem State.spWrite_output (s : State) (a : Nat) (v : Word64) : (s.spWrite a v).output = s.output := rfl

/-! ### `modifyLane` -/

@[simp] theorem State.modifyLane_r (s : State) (i : Nat) (g : Lane → Lane) : (s.modifyLane i g).r = s.r := rfl

@[simp] theorem State.modifyLane_f (s : State) (i : Nat) (g : Lane → Lane) : (s.modifyLane i g).f = s.f := rfl

@[simp] theorem State.modifyLane_e (s : State) (i : Nat) (g : Lane → Lane) : (s.modifyLane i g).e = s.e := rfl

@[simp] theorem State.modifyLane_a (s : State) (i : Nat) (g : Lane → Lane) : (s.modifyLane i g).a = s.a := rfl

@[simp] theorem State.modifyLane_ma (s : State) (i : Nat) (g : Lane → Lane) : (s.modifyLane i g).ma = s.ma := rfl

@[simp] theorem State.modifyLane_mx (s : State) (i : Nat) (g : Lane → Lane) : (s.modifyLane i g).mx = s.mx := rfl

@[simp] theorem State.modifyLane_readReg (s : State) (i : Nat) (g : Lane → Lane) :
    (s.modifyLane i g).readReg = s.readReg := rfl

@[simp] theorem State.modifyLane_eMask0 (s : State) (i : Nat) (g : Lane → Lane) :
    (s.modifyLane i g).eMask0 = s.eMask0 := rfl

@[simp] theorem State.modifyLane_eMask1 (s : State) (i : Nat) (g : Lane → Lane) :
    (s.modifyLane i g).eMask1 = s.eMask1 := rfl

@[simp] theorem State.modifyLane_datasetOffset (s : State) (i : Nat) (g : Lane → Lane) :
    (s.modifyLane i g).datasetOffset = s.datasetOffset := rfl

@[simp] theorem State.modifyLane_fprc (s : State) (i : Nat) (g : Lane → Lane) :
    (s.modifyLane i g).fprc = s.fprc := rfl

@[simp] theorem State.modifyLane_imm (s : State) (i : Nat) (g : Lane → Lane) :
    (s.modifyLane i g).imm = s.imm := rfl

@[simp] theorem State.modifyLane_prog (s : State) (i : Nat) (g : Lane → Lane) :
    (s.modifyLane i g).prog = s.prog := rfl

@[simp] theorem State.modifyLane_pc (s : State) (i : Nat) (g : Lane → Lane) : (s.modifyLane i g).pc = s.pc := rfl

@[simp] theorem State.modifyLane_phase (s : State) (i : Nat) (g : Lane → Lane) :
    (s.modifyLane i g).phase = s.phase := rfl

@[simp] theorem State.modifyLane_round (s : State) (i : Nat) (g : Lane → Lane) :
    (s.modifyLane i g).round = s.round := rfl

@[simp] theorem State.modifyLane_spAddr0 (s : State) (i : Nat) (g : Lane → Lane) :
    (s.modifyLane i g).spAddr0 = s.spAddr0 := rfl

@[simp] theorem State.modifyLane_spAddr1 (s : State) (i : Nat) (g : Lane → Lane) :
    (s.modifyLane i g).spAddr1 = s.spAddr1 := rfl

@[simp] theorem State.modifyLane_first (s : State) (i : Nat) (g : Lane → Lane) :
    (s.modifyLane i g).first = s.first := rfl

@[simp] theorem State.modifyLane_last (s : State) (i : Nat) (g : Lane → Lane) :
    (s.modifyLane i g).last = s.last := rfl

@[simp] theorem State.modifyLane_numIter (s : State) (i : Nat) (g : Lane → Lane) :
    (s.modifyLane i g).numIter = s.numIter := rfl

@[simp] theorem State.modifyLane_lanes (s : State) (i : Nat) (g : Lane → Lane) :
    (s.modifyLane i g).lanes = s.lanes.modify i g := rfl

@[simp] theorem State.modifyLane_fault (s : State) (i : Nat) (g : Lane → Lane) :
    (s.modifyLane i g).fault = s.fault := rfl

@[simp] theorem State.modifyLane_scratch (s : State) (i : Nat) (g : Lane → Lane) :
    (s.modifyLane i g).scratch = s.scratch := rfl

@[simp] theorem State.modifyLane_dataset (s : State) (i : Nat) (g : Lane → Lane) :
    (s.modifyLane i g).dataset = s.dataset := rfl

@[simp] theorem State.modifyLane_entropy (s : State) (i : Nat) (g : Lane → Lane) :
    (s.modifyLane i g).entropy = s.entropy := rfl

@[simp] theorem State.modifyLane_compiler (s : State) (i : Nat) (g : Lane → Lane) :
    (s.modifyLane i g).compiler = s.compiler := rfl

@[simp] theorem State.modifyLane_params (s : State) (i : Nat) (g : Lane → Lane) :
    (s.modifyLane i g).params = s.params := rfl

@[simp] theorem State.modifyLane_agent (s : State) (i : Nat) (g : Lane → Lane) :
    (s.modifyLane i g).agent = s.agent := rfl

@[simp] theorem State.modifyLane_hostQueue (s : State) (i : Nat) (g : Lane → Lane) :
    (s.modifyLane i g).hostQueue = s.hostQueue := rfl

@[simp] theorem State.modifyLane_decoded (s : State) (i : Nat) (g : Lane → Lane) :
    (s.modifyLane i g).decoded = s.decoded := rfl

@[simp] theorem State.modifyLane_seeded (s : State) (i : Nat) (g : Lane → Lane) :
    (s.modifyLane i g).seeded = s.seeded := rfl

@[simp] theorem State.modifyLane_issue (s : State) (i : Nat) (g : Lane → Lane) :
    (s.modifyLane i g).issue = s.issue := rfl

@[simp] theorem State.modifyLane_output (s : State) (i : Nat) (g : Lane → Lane) :
    (s.modifyLane i g).output = s.output := rfl

/-! ### `withIssue` -/

@[simp] theorem State.withIssue_r (s : State) (u : Issue) : (s.withIssue u).r = s.r := rfl

@[simp] theorem State.withIssue_f (s : State) (u : Issue) : (s.withIssue u).f = s.f := rfl

@[simp] theorem State.withIssue_e (s : State) (u : Issue) : (s.withIssue u).e = s.e := rfl

@[simp] theorem State.withIssue_a (s : State) (u : Issue) : (s.withIssue u).a = s.a := rfl

@[simp] theorem State.withIssue_ma (s : State) (u : Issue) : (s.withIssue u).ma = s.ma := rfl

@[simp] theorem State.withIssue_mx (s : State) (u : Issue) : (s.withIssue u).mx = s.mx := rfl

@[simp] theorem State.withIssue_readReg (s : State) (u : Issue) : (s.withIssue u).readReg = s.readReg := rfl

@[simp] theorem State.withIssue_eMask0 (s : State) (u : Issue) : (s.withIssue u).eMask0 = s.eMask0 := rfl

@[simp] theorem State.withIssue_eMask1 (s : State) (u : Issue) : (s.withIssue u).eMask1 = s.eMask1 := rfl

@[simp] theorem State.withIssue_datasetOffset (s : State) (u : Issue) :
    (s.withIssue u).datasetOffset = s.datasetOffset := rfl

@[simp] theorem State.withIssue_fprc (s : State) (u : Issue) : (s.withIssue u).fprc = s.fprc := rfl

@[simp] theorem State.withIssue_imm (s : State) (u : Issue) : (s.withIssue u).imm = s.imm := rfl

@[simp] theorem State.withIssue_prog (s : State) (u : Issue) : (s.withIssue u).prog = s.prog := rfl

@[simp] theorem State.withIssue_pc (s : State) (u : Issue) : (s.withIssue u).pc = s.pc := rfl

@[simp] theorem State.withIssue_phase (s : State) (u : Issue) : (s.withIssue u).phase = s.phase := rfl

@[simp] theorem State.withIssue_round (s : State) (u : Issue) : (s.withIssue u).round = s.round := rfl

@[simp] theorem State.withIssue_spAddr0 (s : State) (u : Issue) : (s.withIssue u).spAddr0 = s.spAddr0 := rfl

@[simp] theorem State.withIssue_spAddr1 (s : State) (u : Issue) : (s.withIssue u).spAddr1 = s.spAddr1 := rfl

@[simp] theorem State.withIssue_first (s : State) (u : Issue) : (s.withIssue u).first = s.first := rfl

@[simp] theorem State.withIssue_last (s : State) (u : Issue) : (s.withIssue u).last = s.last := rfl

@[simp] theorem State.withIssue_numIter (s : State) (u : Issue) : (s.withIssue u).numIter = s.numIter := rfl

@[simp] theorem State.withIssue_lanes (s : State) (u : Issue) : (s.withIssue u).lanes = s.lanes := rfl

@[simp] theorem State.withIssue_fault (s : State) (u : Issue) : (s.withIssue u).fault = s.fault := rfl

@[simp] theorem State.withIssue_scratch (s : State) (u : Issue) : (s.withIssue u).scratch = s.scratch := rfl

@[simp] theorem State.withIssue_dataset (s : State) (u : Issue) : (s.withIssue u).dataset = s.dataset := rfl

@[simp] theorem State.withIssue_entropy (s : State) (u : Issue) : (s.withIssue u).entropy = s.entropy := rfl

@[simp] theorem State.withIssue_compiler (s : State) (u : Issue) : (s.withIssue u).compiler = s.compiler := rfl

@[simp] theorem State.withIssue_params (s : State) (u : Issue) : (s.withIssue u).params = s.params := rfl

@[simp] theorem State.withIssue_agent (s : State) (u : Issue) : (s.withIssue u).agent = s.agent := rfl

@[simp] theorem State.withIssue_hostQueue (s : State) (u : Issue) : (s.withIssue u).hostQueue = s.hostQueue := rfl

@[simp] theorem State.withIssue_decoded (s : State) (u : Issue) : (s.withIssue u).decoded = s.decoded := rfl

@[simp] theorem State.withIssue_seeded (s : State) (u : Issue) : (s.withIssue u).seeded = s.seeded := rfl

@[simp] theorem State.withIssue_issue (s : State) (u : Issue) : (s.withIssue u).issue = u := rfl

@[simp] theorem State.withIssue_output (s : State) (u : Issue) : (s.withIssue u).output = s.output := rfl

/-! ### `startCompile` -/

@[simp] theorem State.startCompile_r (s : State) (m : Memory) : (s.startCompile m).r = s.r := rfl

@[simp] theorem State.startCompile_f (s : State) (m : Memory) : (s.startCompile m).f = s.f := rfl

@[simp] theorem State.startCompile_e (s : State) (m : Memory) : (s.startCompile m).e = s.e := rfl

@[simp] theorem State.startCompile_a (s : State) (m : Memory) : (s.startCompile m).a = s.a := rfl

@[simp] theorem State.startCompile_ma (s : State) (m : Memory) : (s.startCompile m).ma = s.ma := rfl

@[simp] theorem State.startCompile_mx (s : State) (m : Memory) : (s.startCompile m).mx = s.mx := rfl

@[simp] theorem State.startCompile_readReg (s : State) (m : Memory) : (s.startCompile m).readReg = s.readReg := rfl

@[simp] theorem State.startCompile_eMask0 (s : State) (m : Memory) : (s.startCompile m).eMask0 = s.eMask0 := rfl

@[simp] theorem State.startCompile_eMask1 (s : State) (m : Memory) : (s.startCompile m).eMask1 = s.eMask1 := rfl

@[simp] theorem State.startCompile_datasetOffset (s : State) (m : Memory) :
    (s.startCompile m).datasetOffset = s.datasetOffset := rfl

@[simp] theorem State.startCompile_fprc (s : State) (m : Memory) : (s.startCompile m).fprc = s.fprc := rfl

@[simp] theorem State.startCompile_imm (s : State) (m : Memory) : (s.startCompile m).imm = s.imm := rfl

@[simp] theorem State.startCompile_prog (s : State) (m : Memory) : (s.startCompile m).prog = s.prog := rfl

@[simp] theorem State.startCompile_pc (s : State) (m : Memory) : (s.startCompile m).pc = s.pc := rfl

@[simp] theorem State.startCompile_phase (s : State) (m : Memory) : (s.startCompile m).phase = s.phase := rfl

@[simp] theorem State.startCompile_round (s : State) (m : Memory) : (s.startCompile m).round = s.round := rfl

@[simp] theorem State.startCompile_spAddr0 (s : State) (m : Memory) : (s.startCompile m).spAddr0 = s.spAddr0 := rfl

@[simp] theorem State.startCompile_spAddr1 (s : State) (m : Memory) : (s.startCompile m).spAddr1 = s.spAddr1 := rfl

@[simp] theorem State.startCompile_first (s : State) (m : Memory) : (s.startCompile m).first = s.first := rfl

@[simp] theorem State.startCompile_last (s : State) (m : Memory) : (s.startCompile m).last = s.last := rfl

@[simp] theorem State.startCompile_numIter (s : State) (m : Memory) : (s.startCompile m).numIter = s.numIter := rfl

@[simp] theorem State.startCompile_lanes (s : State) (m : Memory) : (s.startCompile m).lanes = s.lanes := rfl

@[simp] theorem State.startCompile_fault (s : State) (m : Memory) : (s.startCompile m).fault = s.fault := rfl

@[simp] theorem State.startCompile_scratch (s : State) (m : Memory) : (s.startCompile m).scratch = s.scratch := rfl

@[simp] theorem State.startCompile_dataset (s : State) (m : Memory) : (s.startCompile m).dataset = s.dataset := rfl

@[simp] theorem State.startCompile_entropy (s : State) (m : Memory) : (s.startCompile m).entropy = m := rfl

@[simp] theorem State.startCompile_compiler (s : State) (m : Memory) :
    (s.startCompile m).compiler = s.compiler := rfl

@[simp] theorem State.startCompile_params (s : State) (m : Memory) : (s.startCompile m).params = s.params := rfl

@[simp] theorem State.startCompile_agent (s : State) (m : Memory) :
    (s.startCompile m).agent = .compile .decode := rfl

@[simp] theorem State.startCompile_hostQueue (s : State) (m : Memory) :
    (s.startCompile m).hostQueue = s.hostQueue := rfl

@[simp] theorem State.startCompile_decoded (s : State) (m : Memory) : (s.startCompile m).decoded = s.decoded := rfl

@[simp] theorem State.startCompile_seeded (s : State) (m : Memory) : (s.startCompile m).seeded = s.seeded := rfl

@[simp] theorem State.startCompile_issue (s : State) (m : Memory) : (s.startCompile m).issue = s.issue := rfl

@[simp] theorem State.startCompile_output (s : State) (m : Memory) : (s.startCompile m).output = none := rfl

/-! ### `startBatch` -/

@[simp] theorem State.startBatch_r (s : State) (k : Nat) (b c : Bool) : (s.startBatch k b c).r = s.r := rfl

@[simp] theorem State.startBatch_f (s : State) (k : Nat) (b c : Bool) : (s.startBatch k b c).f = s.f := rfl

@[simp] theorem State.startBatch_e (s : State) (k : Nat) (b c : Bool) : (s.startBatch k b c).e = s.e := rfl

@[simp] theorem State.startBatch_a (s : State) (k : Nat) (b c : Bool) : (s.startBatch k b c).a = s.a := rfl

@[simp] theorem State.startBatch_ma (s : State) (k : Nat) (b c : Bool) : (s.startBatch k b c).ma = s.ma := rfl

@[simp] theorem State.startBatch_mx (s : State) (k : Nat) (b c : Bool) : (s.startBatch k b c).mx = s.mx := rfl

@[simp] theorem State.startBatch_readReg (s : State) (k : Nat) (b c : Bool) :
    (s.startBatch k b c).readReg = s.readReg := rfl

@[simp] theorem State.startBatch_eMask0 (s : State) (k : Nat) (b c : Bool) :
    (s.startBatch k b c).eMask0 = s.eMask0 := rfl

@[simp] theorem State.startBatch_eMask1 (s : State) (k : Nat) (b c : Bool) :
    (s.startBatch k b c).eMask1 = s.eMask1 := rfl

@[simp] theorem State.startBatch_datasetOffset (s : State) (k : Nat) (b c : Bool) :
    (s.startBatch k b c).datasetOffset = s.datasetOffset := rfl

@[simp] theorem State.startBatch_fprc (s : State) (k : Nat) (b c : Bool) :
    (s.startBatch k b c).fprc = s.fprc := rfl

@[simp] theorem State.startBatch_imm (s : State) (k : Nat) (b c : Bool) : (s.startBatch k b c).imm = s.imm := rfl

@[simp] theorem State.startBatch_prog (s : State) (k : Nat) (b c : Bool) :
    (s.startBatch k b c).prog = s.prog := rfl

@[simp] theorem State.startBatch_pc (s : State) (k : Nat) (b c : Bool) : (s.startBatch k b c).pc = s.pc := rfl

@[simp] theorem State.startBatch_phase (s : State) (k : Nat) (b c : Bool) :
    (s.startBatch k b c).phase = .seed := rfl

@[simp] theorem State.startBatch_round (s : State) (k : Nat) (b c : Bool) : (s.startBatch k b c).round = 0 := rfl

@[simp] theorem State.startBatch_spAddr0 (s : State) (k : Nat) (b c : Bool) :
    (s.startBatch k b c).spAddr0 = (if b then s.mx else 0) := rfl

@[simp] theorem State.startBatch_spAddr1 (s : State) (k : Nat) (b c : Bool) :
    (s.startBatch k b c).spAddr1 = (if b then s.ma else 0) := rfl

@[simp] theorem State.startBatch_first (s : State) (k : Nat) (b c : Bool) : (s.startBatch k b c).first = b := rfl

@[simp] theorem State.startBatch_last (s : State) (k : Nat) (b c : Bool) : (s.startBatch k b c).last = c := rfl

@[simp] theorem State.startBatch_numIter (s : State) (k : Nat) (b c : Bool) :
    (s.startBatch k b c).numIter = k := rfl

@[simp] theorem State.startBatch_lanes (s : State) (k : Nat) (b c : Bool) :
    (s.startBatch k b c).lanes = List.replicate s.params.w (Lane.fresh s.pc s.fprc) := rfl

@[simp] theorem State.startBatch_fault (s : State) (k : Nat) (b c : Bool) :
    (s.startBatch k b c).fault = s.fault := rfl

@[simp] theorem State.startBatch_scratch (s : State) (k : Nat) (b c : Bool) :
    (s.startBatch k b c).scratch = s.scratch := rfl

@[simp] theorem State.startBatch_dataset (s : State) (k : Nat) (b c : Bool) :
    (s.startBatch k b c).dataset = s.dataset := rfl

@[simp] theorem State.startBatch_entropy (s : State) (k : Nat) (b c : Bool) :
    (s.startBatch k b c).entropy = s.entropy := rfl

@[simp] theorem State.startBatch_compiler (s : State) (k : Nat) (b c : Bool) :
    (s.startBatch k b c).compiler = s.compiler := rfl

@[simp] theorem State.startBatch_params (s : State) (k : Nat) (b c : Bool) :
    (s.startBatch k b c).params = s.params := rfl

@[simp] theorem State.startBatch_agent (s : State) (k : Nat) (b c : Bool) :
    (s.startBatch k b c).agent = .interpret := rfl

@[simp] theorem State.startBatch_hostQueue (s : State) (k : Nat) (b c : Bool) :
    (s.startBatch k b c).hostQueue = s.hostQueue := rfl

@[simp] theorem State.startBatch_decoded (s : State) (k : Nat) (b c : Bool) :
    (s.startBatch k b c).decoded = s.decoded := rfl

@[simp] theorem State.startBatch_seeded (s : State) (k : Nat) (b c : Bool) :
    (s.startBatch k b c).seeded = false := rfl

@[simp] theorem State.startBatch_issue (s : State) (k : Nat) (b c : Bool) :
    (s.startBatch k b c).issue = s.issue := rfl

@[simp] theorem State.startBatch_output (s : State) (k : Nat) (b c : Bool) :
    (s.startBatch k b c).output = s.output := rfl

/-! ### Register reads after a write -/

@[simp] theorem State.reg_setReg_same (s : State) (j : Fin 8) (v : Word64) : (s.setReg j v).reg j = v :=
  Bank8.get_set_same s.r j v

theorem State.reg_setReg_of_ne (s : State) {i j : Fin 8} (v : Word64) (h : i ≠ j) : (s.setReg j v).reg i = s.reg i :=
  Bank8.get_set_of_ne s.r v h

@[simp] theorem State.fReg_setFReg_same (s : State) (j : Fin 4) (v : FReg) : (s.setFReg j v).fReg j = v :=
  Bank4.get_set_same s.f j v

theorem State.fReg_setFReg_of_ne (s : State) {i j : Fin 4} (v : FReg) (h : i ≠ j) :
    (s.setFReg j v).fReg i = s.fReg i :=
  Bank4.get_set_of_ne s.f v h

@[simp] theorem State.eReg_setEReg_same (s : State) (j : Fin 4) (v : FReg) : (s.setEReg j v).eReg j = v :=
  Bank4.get_set_same s.e j v

theorem State.eReg_setEReg_of_ne (s : State) {i j : Fin 4} (v : FReg) (h : i ≠ j) :
    (s.setEReg j v).eReg i = s.eReg i :=
  Bank4.get_set_of_ne s.e v h

end Sys2Proof.Machine
end

