-- ==== Sys2Proof/Laws/Memory.lean ====
section
/-! SUPPORT. What the memory operations do: a byte reads back as it was written, every other byte reads as before, and
every write keeps the canonical form and stays inside the buffer. -/

namespace Sys2Proof.Machine

/-! ### Reads -/

@[simp] theorem Memory.read_nil (a : Nat) : Memory.read [] a = Memory.unlisted := rfl

theorem Memory.read_cons (c : Host.Cell) (m : Memory) (a : Nat) :
    Memory.read (c :: m) a = if c.1 = a then c.2 else Memory.read m a := rfl

/-- A canonical list from `lo` up lists nothing below `lo`. -/
theorem Memory.read_below (m : Memory) {lo a : Nat} (hm : m.wfFrom lo = true) (h : a < lo) :
    m.read a = Memory.unlisted := by
  induction m generalizing lo with
  | nil => rfl
  | cons c rest ih =>
    simp only [Memory.wfFrom, Bool.and_eq_true, decide_eq_true_eq] at hm
    rw [Memory.read_cons, if_neg (by omega)]
    exact ih hm.2 (by omega)

theorem Memory.read_consCell_same (a : Nat) (b : Byte) (m : Memory) (hm : m.wfFrom (a + 1) = true) :
    (Memory.consCell a b m).read a = b := by
  unfold Memory.consCell
  split
  · next h => rw [Memory.read_below m hm (by omega), h]
  · simp [Memory.read_cons]

theorem Memory.read_consCell_of_ne {a c : Nat} (b : Byte) (m : Memory) (h : c ≠ a) :
    (Memory.consCell a b m).read c = m.read c := by
  unfold Memory.consCell
  split
  · rfl
  · rw [Memory.read_cons, if_neg (Ne.symm h)]

/-- A byte reads back as it was written. -/
theorem Memory.read_write_same (m : Memory) (a : Nat) (b : Byte) (hm : m.wf = true) : (m.write a b).read a = b := by
  unfold Memory.wf at hm
  generalize (0 : Nat) = lo at hm
  induction m generalizing lo with
  | nil => exact Memory.read_consCell_same a b [] rfl
  | cons c rest ih =>
    simp only [Memory.wfFrom, Bool.and_eq_true, decide_eq_true_eq] at hm
    simp only [Memory.write]
    split
    · next h => rw [Memory.read_cons, if_neg (by omega)]; exact ih _ hm.2
    · split
      · next h => subst h; exact Memory.read_consCell_same _ b rest hm.2
      · exact Memory.read_consCell_same a b _ (by simp [Memory.wfFrom, hm.1.2, hm.2]; omega)

/-- A write leaves every other byte as it was. -/
theorem Memory.read_write_of_ne (m : Memory) {a c : Nat} (b : Byte) (h : c ≠ a) : (m.write a b).read c = m.read c := by
  induction m with
  | nil => exact Memory.read_consCell_of_ne b [] h
  | cons d rest ih =>
    simp only [Memory.write]
    split
    · simp only [Memory.read_cons, ih]
    · split
      · next h1 h2 => rw [Memory.read_consCell_of_ne b rest h, Memory.read_cons, if_neg (by omega)]
      · exact Memory.read_consCell_of_ne b _ h

/-! ### The canonical form -/

theorem Memory.wfFrom_mono (m : Memory) {lo hi : Nat} (h : lo ≤ hi) (hm : m.wfFrom hi = true) :
    m.wfFrom lo = true := by
  cases m with
  | nil => rfl
  | cons c rest =>
    simp only [Memory.wfFrom, Bool.and_eq_true, decide_eq_true_eq] at hm ⊢
    exact ⟨⟨by omega, hm.1.2⟩, hm.2⟩

theorem Memory.wfFrom_consCell (m : Memory) {lo a : Nat} (b : Byte) (h : lo ≤ a) (hm : m.wfFrom (a + 1) = true) :
    (Memory.consCell a b m).wfFrom lo = true := by
  unfold Memory.consCell
  split
  · exact Memory.wfFrom_mono m (by omega) hm
  · next hb => simp [Memory.wfFrom, h, hm]; exact hb

theorem Memory.wfFrom_write (m : Memory) {lo a : Nat} (b : Byte) (h : lo ≤ a) (hm : m.wfFrom lo = true) :
    (m.write a b).wfFrom lo = true := by
  induction m generalizing lo with
  | nil => exact Memory.wfFrom_consCell [] b h rfl
  | cons c rest ih =>
    simp only [Memory.wfFrom, Bool.and_eq_true, decide_eq_true_eq] at hm
    simp only [Memory.write]
    split
    · next hc =>
      simp only [Memory.wfFrom, Bool.and_eq_true, decide_eq_true_eq]
      exact ⟨hm.1, ih (by omega) hm.2⟩
    · split
      · next hc => exact Memory.wfFrom_consCell rest b h (hc ▸ hm.2)
      · refine Memory.wfFrom_consCell _ b h ?_
        simp only [Memory.wfFrom, Bool.and_eq_true, decide_eq_true_eq]
        exact ⟨⟨by omega, hm.1.2⟩, hm.2⟩

/-- Every byte write keeps the canonical form. -/
theorem Memory.wf_write (m : Memory) (a : Nat) (b : Byte) (hm : m.wf = true) : (m.write a b).wf = true :=
  Memory.wfFrom_write m b (Nat.zero_le a) hm

/-- A write below the buffer's end keeps every listed address below it. -/
theorem Memory.inside_write {size : Nat} (m : Memory) {a : Nat} (b : Byte) (h : a < size)
    (hm : m.inside size = true) : (m.write a b).inside size = true := by
  induction m with
  | nil =>
    simp only [Memory.write, Memory.consCell]
    split <;> simp [Memory.inside, h]
  | cons c rest ih =>
    simp only [Memory.inside, List.all_cons, Bool.and_eq_true, decide_eq_true_eq] at hm
    have hrest := ih (by simpa [Memory.inside] using hm.2)
    simp only [Memory.write, Memory.consCell]
    split
    · simpa [Memory.inside, hm.1] using hrest
    · split
      · split <;> simp [Memory.inside, h] <;> simpa using hm.2
      · split <;> simp [Memory.inside, h, hm.1] <;> simpa using hm.2

/-- Every store of bytes keeps the canonical form. -/
theorem Memory.wf_writeBytes (m : Memory) (a : Nat) (v : Word64) (k : Nat) (hm : m.wf = true) :
    (m.writeBytes a v k).wf = true := by
  induction k with
  | zero => exact hm
  | succ k ih => exact Memory.wf_write _ _ _ ih

/-- Every word store keeps the canonical form. -/
theorem Memory.wf_writeWord (m : Memory) (a : Nat) (v : Word64) (hm : m.wf = true) : (m.writeWord a v).wf = true :=
  Memory.wf_writeBytes m a v 8 hm

/-- A store of bytes inside the buffer keeps every listed address inside it. -/
theorem Memory.inside_writeBytes {size : Nat} (m : Memory) {a : Nat} (v : Word64) (k : Nat) (h : a + k ≤ size)
    (hm : m.inside size = true) : (m.writeBytes a v k).inside size = true := by
  induction k with
  | zero => exact hm
  | succ k ih => exact Memory.inside_write _ _ (by omega) (ih (by omega))

/-- A word store inside the buffer keeps every listed address inside it. -/
theorem Memory.inside_writeWord {size : Nat} (m : Memory) {a : Nat} (v : Word64) (h : a + 8 ≤ size)
    (hm : m.inside size = true) : (m.writeWord a v).inside size = true :=
  Memory.inside_writeBytes m v 8 h hm

/-- A store of bytes leaves every byte outside them as it was. -/
theorem Memory.read_writeBytes_outside (m : Memory) (a : Nat) (v : Word64) (k : Nat) {c : Nat}
    (h : c < a ∨ a + k ≤ c) : (m.writeBytes a v k).read c = m.read c := by
  induction k with
  | zero => rfl
  | succ k ih =>
    rw [Memory.writeBytes, Memory.read_write_of_ne _ _ (by omega), ih (by omega)]

/-- A word store leaves every byte outside its eight as it was. -/
theorem Memory.read_writeWord_outside (m : Memory) (a : Nat) (v : Word64) {c : Nat} (h : c < a ∨ a + 8 ≤ c) :
    (m.writeWord a v).read c = m.read c :=
  Memory.read_writeBytes_outside m a v 8 h

/-- A stored byte reads back. -/
theorem Memory.read_writeBytes_inside (m : Memory) (a : Nat) (v : Word64) (k : Nat) {i : Nat} (h : i < k)
    (hm : m.wf = true) : (m.writeBytes a v k).read (a + i) = word64Byte v i := by
  induction k with
  | zero => omega
  | succ k ih =>
    rw [Memory.writeBytes]
    by_cases hik : i = k
    · subst hik; exact Memory.read_write_same _ _ _ (Memory.wf_writeBytes m a v i hm)
    · rw [Memory.read_write_of_ne _ _ (by omega), ih (by omega)]

/-- Nothing is listed after reset, and that is canonical. -/
theorem reset_memories_wf :
    State.reset.scratch.wf = true ∧ State.reset.dataset.wf = true ∧ State.reset.entropy.wf = true := by
  decide

end Sys2Proof.Machine
end

