-- ==== Sys2Proof/Laws/Ops.lean ====
section
/-! SUPPORT. For each shared operation, one lemma that says once everything it can do. Later proofs cite these and
unfold nothing. -/

namespace Sys2Proof.Machine

open Sys2Proof.Config (Params)

/-! ### Raising a fault (R410) -/

theorem State.raise_of_none (s : State) (rec : FaultRecord) (h : s.fault = none) :
    s.raise rec = { s with fault := some rec } := by
  simp [State.raise, h]

theorem State.raise_of_some (s : State) (rec old : FaultRecord) (h : s.fault = some old) : s.raise rec = s := by
  simp [State.raise, h]

/-- Raising a fault changes nothing but the fault record. -/
theorem State.raise_only_fault (s : State) (rec : FaultRecord) : OnlyFault s (s.raise rec) := by
  unfold OnlyFault State.raise
  cases s.fault <;> rfl

theorem State.raise_fault_isSome (s : State) (rec : FaultRecord) : (s.raise rec).fault.isSome = true := by
  unfold State.raise
  cases h : s.fault <;> simp [h]

/-! ### Reading places (R413) -/

theorem State.firstUnwritten_eq_none (s : State) (places : List Location) :
    s.firstUnwritten places = none ↔ ∀ l ∈ places, s.isWritten l = true := by
  simp [State.firstUnwritten, List.find?_eq_none]

theorem State.firstUnwritten_eq_some {s : State} {places : List Location} {l : Location}
    (h : s.firstUnwritten places = some l) : l ∈ places ∧ s.isWritten l = false := by
  unfold State.firstUnwritten at h
  exact ⟨List.mem_of_find?_eq_some h, by simpa using List.find?_some h⟩

/-- What a guarded read can do: raise UNWRITTEN_READ for a place without a value, or have its effect. -/
theorem State.reading_cases {s t : State} {places : List Location} {effect : Host.Outcome State Fault Refusal}
    (h : s.reading places effect = .next t) :
    (∃ l ∈ places, s.isWritten l = false ∧ t = s.raise (.unwrittenRead s.pc s.issue.word l)) ∨
    ((∀ l ∈ places, s.isWritten l = true) ∧ effect = .next t) := by
  unfold State.reading at h
  split at h
  · next l hl =>
    simp only [State.faultWord, Host.Outcome.next.injEq] at h
    exact .inl ⟨l, (State.firstUnwritten_eq_some hl).1, (State.firstUnwritten_eq_some hl).2, h.symm⟩
  · next hl => exact .inr ⟨(State.firstUnwritten_eq_none s places).1 hl, h⟩

/-- A guarded read whose places all have values has its effect. -/
theorem State.reading_of_written {s : State} {places : List Location} (effect : Host.Outcome State Fault Refusal)
    (h : ∀ l ∈ places, s.isWritten l = true) : s.reading places effect = effect := by
  simp [State.reading, (State.firstUnwritten_eq_none s places).2 h]

/-! ### Executing a word (R132, R413, R414) -/

/-- What executing a word can do: BAD_WORD for an illegal one, UNWRITTEN_READ for a place without a value, or its
effect. -/
theorem State.executing_cases {s t : State} {i : Instr} {places : List Location}
    {effect : Host.Outcome State Fault Refusal} (h : s.executing i places effect = .next t) :
    (i.legal = false ∧ t = s.raise (.badWord s.pc s.issue.word (encodeWord i))) ∨
    (i.legal = true ∧ ∃ l ∈ places, s.isWritten l = false ∧ t = s.raise (.unwrittenRead s.pc s.issue.word l)) ∨
    (i.legal = true ∧ (∀ l ∈ places, s.isWritten l = true) ∧ effect = .next t) := by
  unfold State.executing at h
  split at h
  · next hl =>
    rcases State.reading_cases h with h1 | h1
    · exact .inr (.inl ⟨hl, h1⟩)
    · exact .inr (.inr ⟨hl, h1⟩)
  · next hl =>
    simp only [State.faultWord, Host.Outcome.next.injEq] at h
    exact .inl ⟨by simpa using hl, h.symm⟩

/-- A legal word whose places all have values has its effect. -/
theorem State.executing_of_written {s : State} {i : Instr} {places : List Location}
    (effect : Host.Outcome State Fault Refusal) (hl : i.legal = true) (h : ∀ l ∈ places, s.isWritten l = true) :
    s.executing i places effect = effect := by
  simp [State.executing, hl, State.reading_of_written effect h]

/-- Executing a word whose effect is a next state answers a next state. -/
theorem State.executing_next (s : State) (i : Instr) (places : List Location)
    {effect : Host.Outcome State Fault Refusal} (h : ∃ t, effect = .next t) :
    ∃ t, s.executing i places effect = .next t := by
  unfold State.executing State.reading State.faultWord
  split
  · split
    · exact ⟨_, rfl⟩
    · exact h
  · exact ⟨_, rfl⟩

/-! ### Lane requests (R53) -/

theorem State.requestJump_only_lanes (s : State) (target : BitVec 16) :
    s.requestJump target = { s with lanes := (s.requestJump target).lanes } := by
  unfold State.requestJump
  cases h : s.issue.paired <;> simp [Issue.lanes, h] <;> rfl

theorem State.requestRounding_only_lanes (s : State) (mode : BitVec 2) :
    s.requestRounding mode = { s with lanes := (s.requestRounding mode).lanes } := by
  unfold State.requestRounding
  cases h : s.issue.paired <;> simp [Issue.lanes, h] <;> rfl

/-! ### The resynchronisation (R259–R261) -/

/-- What the resynchronisation can do: PC_RANGE past the program's end, or one `pc` and one mode for every lane. -/
theorem State.resync_cases (s : State) (n : Nat) :
    (s.progLen < (jumpVote s.lanes).getD (s.pc + n) ∧ s.resync n = s.raise (.pcRange s.pc n)) ∨
    ((jumpVote s.lanes).getD (s.pc + n) ≤ s.progLen ∧
      s.resync n =
        { s with
          pc := (jumpVote s.lanes).getD (s.pc + n)
          fprc := (roundingVote s.lanes).getD s.fprc
          lanes := s.lanes.map fun _ =>
            Lane.fresh ((jumpVote s.lanes).getD (s.pc + n)) ((roundingVote s.lanes).getD s.fprc)
          phase := if (jumpVote s.lanes).getD (s.pc + n) = s.progLen then .writeback else .dispatch }) := by
  unfold State.resync
  by_cases h : s.progLen < (jumpVote s.lanes).getD (s.pc + n)
  · exact .inl ⟨h, by simp [h]⟩
  · exact .inr ⟨by omega, by simp [h]⟩

/-! ### The group (R256–R261, R414) -/

/-- What dispatching one group can do: a fault of the fetch, a stop or a fault of a word, GROUP_CONFLICT, or all the
words' effects and the resynchronisation. -/
theorem State.groupStep_cases {s t : State} (h : s.groupStep = .next t) :
    (∃ rec, s.fetchGroup = .error rec ∧ t = s.raise rec) ∨
    (∃ slots rec, s.fetchGroup = .ok slots ∧ s.runSlots slots = .next (.error rec) ∧ t = s.raise rec) ∨
    (∃ slots results q p x, s.fetchGroup = .ok slots ∧ s.runSlots slots = .next (.ok results) ∧
      firstConflict slots = some (q, p, x) ∧ t = s.raise (.groupConflict s.pc q.issue.word p.issue.word x)) ∨
    (∃ slots results, s.fetchGroup = .ok slots ∧ s.runSlots slots = .next (.ok results) ∧
      firstConflict slots = none ∧ t = (results.foldl State.applyResult s).resync slots.length) := by
  unfold State.groupStep at h
  split at h
  · next rec hf => exact .inl ⟨rec, hf, by simpa using h.symm⟩
  · next slots hf =>
    split at h
    · cases h
    · cases h
    · next rec hr => exact .inr (.inl ⟨slots, rec, hf, hr, by simpa using h.symm⟩)
    · next results hr =>
      split at h
      · next q p x hc => exact .inr (.inr (.inl ⟨slots, results, q, p, x, hf, hr, hc, by simpa using h.symm⟩))
      · next hc => exact .inr (.inr (.inr ⟨slots, results, hf, hr, hc, by simpa using h.symm⟩))

/-- What one dispatch step can do (R256, R261, R412). -/
theorem State.dispatchStep_cases {s t : State} (h : s.dispatchStep = .next t) :
    (s.pc < s.progLen ∧ s.groupStep = .next t) ∨
    (s.pc = s.progLen ∧ t = { s with phase := .writeback }) ∨
    (s.progLen < s.pc ∧ t = s.raise (.pcRange s.pc 0)) := by
  unfold State.dispatchStep at h
  split at h
  · next h1 => exact .inl ⟨h1, h⟩
  · split at h
    · next h1 h2 => exact .inr (.inl ⟨h2, by simpa using h.symm⟩)
    · next h1 h2 => exact .inr (.inr ⟨by omega, by simpa using h.symm⟩)

/-! ### The round steps -/

/-- What seeding can do (R250–R255, R413). -/
theorem State.seedStep_cases {s t : State} (h : s.seedStep = .next t) :
    (∃ l ∈ seedPlaces, s.isWritten l = false ∧ t = s.raise (.unwrittenRead s.pc s.pc l)) ∨
    ((∀ l ∈ seedPlaces, s.isWritten l = true) ∧ t = s.seedRegisters.startDispatch) := by
  unfold State.seedStep at h
  split at h
  · next l hl =>
    exact .inl ⟨l, (State.firstUnwritten_eq_some hl).1, (State.firstUnwritten_eq_some hl).2, by simpa using h.symm⟩
  · next hl => exact .inr ⟨(State.firstUnwritten_eq_none s _).1 hl, by simpa using h.symm⟩

/-- What the write-back can do (R262–R267, R414). -/
theorem State.writebackStep_cases {s t : State} (h : s.writebackStep = .next t) :
    (∃ l ∈ writebackPlaces, s.isWritten l = false ∧ t = s.raise (.unwrittenRead s.pc s.pc l)) ∨
    (∃ a, s.dsPast = some a ∧ t = s.raise (.datasetRange s.round a)) ∨
    ((∀ l ∈ writebackPlaces, s.isWritten l = true) ∧ s.dsPast = none ∧ t = s.writtenBack.endRound) := by
  unfold State.writebackStep at h
  split at h
  · next l hl =>
    exact .inl ⟨l, (State.firstUnwritten_eq_some hl).1, (State.firstUnwritten_eq_some hl).2, by simpa using h.symm⟩
  · next hl =>
    split at h
    · next a ha => exact .inr (.inl ⟨a, ha, by simpa using h.symm⟩)
    · next ha => exact .inr (.inr ⟨(State.firstUnwritten_eq_none s _).1 hl, ha, by simpa using h.symm⟩)

/-! ### The compile engine (R200, R232) -/

/-- What one compile step can do. -/
theorem State.compileStep_cases {s t : State} {stage : CompileStage} (h : s.compileStep stage = .next t) :
    (stage = .decode ∧
      t = { s.decodeSeeds with compiler := .initial, imm := [], prog := [], agent := .compile (.pass1 0) }) ∨
    (∃ i raw, stage = .pass1 i ∧ s.rawInstr i = some raw ∧
      t = { s with
            compiler := s.compiler.pass1 s.params i raw
            agent := .compile (stageAfter i .pass1 (.pass2 0)) }) ∨
    (∃ i raw rec, stage = .pass2 i ∧ s.rawInstr i = some raw ∧
      s.compiler.pass2 s.params s.imm i raw = .error rec ∧ t = s.raise rec) ∨
    (∃ i raw c imm, stage = .pass2 i ∧ s.rawInstr i = some raw ∧
      s.compiler.pass2 s.params s.imm i raw = .ok (c, imm) ∧
      t = { s with compiler := c, imm := imm, agent := .compile (stageAfter i .pass2 .emit) }) ∨
    (∃ rec, stage = .emit ∧ s.emitProgram = .error rec ∧ t = s.raise rec) ∨
    (∃ prog imm, stage = .emit ∧ s.emitProgram = .ok (prog, imm) ∧
      t = { s with prog := prog, imm := imm, agent := .host }) := by
  unfold State.compileStep at h
  cases stage with
  | decode => exact .inl ⟨rfl, by simpa using h.symm⟩
  | pass1 i =>
    simp only at h
    split at h
    · cases h
    · next raw hr => exact .inr (.inl ⟨i, raw, rfl, hr, by simpa using h.symm⟩)
  | pass2 i =>
    simp only at h
    split at h
    · cases h
    · next raw hr =>
      split at h
      · next rec hp => exact .inr (.inr (.inl ⟨i, raw, rec, rfl, hr, hp, by simpa using h.symm⟩))
      · next c imm hp => exact .inr (.inr (.inr (.inl ⟨i, raw, c, imm, rfl, hr, hp, by simpa using h.symm⟩)))
  | emit =>
    simp only at h
    split at h
    · next rec he => exact .inr (.inr (.inr (.inr (.inl ⟨rec, rfl, he, by simpa using h.symm⟩))))
    · next prog imm he => exact .inr (.inr (.inr (.inr (.inr ⟨prog, imm, rfl, he, by simpa using h.symm⟩))))

/-- What pass 2 can do with one instruction (R220–R224). -/
theorem Compiler.pass2_cases {p : Params} {c d : Compiler} {imm imm' : List Word32} {k : Nat} {raw : RawInstr}
    (h : c.pass2 p imm k raw = .ok (d, imm')) :
    ∃ cyc, imm.length + (immEntries raw).length ≤ Config.immCap ∧
      findCycle p.w c.used (laneNeed p.w (lower raw (c.cregAt k))) (Config.fpSearchCap + 1)
        (c.earliest k (lower raw (c.cregAt k))) = some cyc ∧
      d = c.place p k (lower raw (c.cregAt k)) cyc (if (immEntries raw).isEmpty then 0 else imm.length) ∧
      imm' = imm ++ immEntries raw := by
  unfold Compiler.pass2 at h
  simp only at h
  split at h
  · cases h
  · next hcap =>
    split at h
    · cases h
    · next cyc hf =>
      simp only [Except.ok.injEq, Prod.mk.injEq] at h
      exact ⟨cyc, by omega, hf, h.1.symm, h.2.symm⟩

/-- A found cycle has room and is not below the start. -/
theorem findCycle_some {w need fuel cyc c : Nat} {used : List (Nat × Nat)}
    (h : findCycle w used need fuel cyc = some c) : cyc ≤ c ∧ usedAt used c + need ≤ w := by
  induction fuel generalizing cyc with
  | zero => cases h
  | succ fuel ih =>
    simp only [findCycle] at h
    split at h
    · next hr => simp only [Option.some.injEq] at h; subst h; exact ⟨Nat.le_refl _, hr⟩
    · exact ⟨by have := (ih h).1; omega, (ih h).2⟩

/-! ### The host's interactions (R426) -/

/-- What taking an interaction can do. -/
theorem State.takeCmd_cases {s t : State} {cmd : HostCmd} {queue : List HostCmd}
    (h : s.takeCmd cmd queue = .next t) :
    (∃ m, cmd = .startHash m ∧ m.fits Config.l3Size = true ∧ t = s.startHash m queue) ∨
    (∃ m, cmd = .initScratchpad m ∧ m.fits Config.l3Size = true ∧ t = { s with scratch := m, hostQueue := queue }) ∨
    (∃ m, cmd = .compile m ∧ m.fits Config.entropySize = true ∧
      t = { s with hostQueue := queue }.startCompile m) ∨
    (∃ k first last, cmd = .interpret k first last ∧ s.decoded = true ∧ s.prog ≠ [] ∧ k ≠ 0 ∧
      t = { s with hostQueue := queue }.startBatch k first last) := by
  unfold State.takeCmd at h
  cases cmd with
  | startHash m =>
    simp only at h
    split at h
    · next hf => exact .inl ⟨m, rfl, hf, by simpa using h.symm⟩
    · cases h
  | initScratchpad m =>
    simp only at h
    split at h
    · next hf => exact .inr (.inl ⟨m, rfl, hf, by simpa using h.symm⟩)
    · cases h
  | compile m =>
    simp only at h
    split at h
    · next hf => exact .inr (.inr (.inl ⟨m, rfl, hf, by simpa using h.symm⟩))
    · cases h
  | interpret k first last =>
    simp only at h
    split at h
    · cases h
    · next hd =>
      split at h
      · cases h
      · next hk =>
        rw [not_or] at hd
        exact .inr (.inr (.inr ⟨k, first, last, rfl, by simpa using hd.1, hd.2, hk, by simpa using h.symm⟩))

/-- The host's turn is taking the first interaction queued. -/
theorem State.hostStep_cases {s t : State} (h : s.hostStep = .next t) :
    ∃ cmd queue, s.hostQueue = cmd :: queue ∧ s.takeCmd cmd queue = .next t := by
  unfold State.hostStep at h
  split at h
  · cases h
  · next cmd queue hq => exact ⟨cmd, queue, hq, h⟩

/-! ### The step -/

/-- What one step can do: only a running instance moves, by its agent, and the interpreter by its phase (R269,
R410, R429). -/
theorem step_cases {s t : State} (h : step s = .next t) :
    s.params.ok = true ∧ s.fault = none ∧
      ((s.agent = .host ∧ s.hostStep = .next t) ∨
       (∃ stage, s.agent = .compile stage ∧ s.compileStep stage = .next t) ∨
       (s.agent = .interpret ∧ s.phase = .seed ∧ s.seedStep = .next t) ∨
       (s.agent = .interpret ∧ s.phase = .dispatch ∧ s.dispatchStep = .next t) ∨
       (s.agent = .interpret ∧ s.phase = .writeback ∧ s.writebackStep = .next t) ∨
       (s.agent = .interpret ∧ s.phase = .done ∧ s.hostStep = .next t)) := by
  unfold step at h
  split at h
  · next hp =>
    split at h
    · cases h
    · next hf =>
      refine ⟨hp, hf, ?_⟩
      unfold State.agentStep at h
      split at h
      · next ha => exact .inl ⟨ha, h⟩
      · next stage ha => exact .inr (.inl ⟨stage, ha, h⟩)
      · next ha =>
        unfold State.interpretStep at h
        split at h
        · next hh => exact .inr (.inr (.inl ⟨ha, hh, h⟩))
        · next hh => exact .inr (.inr (.inr (.inl ⟨ha, hh, h⟩)))
        · next hh => exact .inr (.inr (.inr (.inr (.inl ⟨ha, hh, h⟩))))
        · next hh => exact .inr (.inr (.inr (.inr (.inr ⟨ha, hh, h⟩))))
  · cases h

end Sys2Proof.Machine
end

