-- ==== Sys2Proof/Laws/Exec.lean ====
section
/-! SUPPORT. What executing any instruction can do, whatever it is: it always answers a next state, it changes nothing
but registers, scratchpad, lane requests and the fault record, and a word that faults changes only the record. -/

namespace Sys2Proof.Machine

/-! ### Every instruction answers a next state -/

/-- Executing an instruction never stops the machine: what the spec calls a fault is a next state whose fault record
is set (R410). -/
theorem exec_answers_next (i : Instr) (s : State) : ∃ t, exec i s = .next t := by
  cases i with
  | cbranch w =>
    refine State.executing_next s _ _ ?_
    split
    · split
      · exact ⟨_, rfl⟩
      · exact ⟨_, rfl⟩
    · exact ⟨_, rfl⟩
  | fswapR w =>
    simp only [exec, execFswapR]
    split <;> exact State.executing_next s _ _ ⟨_, rfl⟩
  | _ => exact State.executing_next s _ _ ⟨_, rfl⟩

/-! ### The frame every instruction keeps -/

theorem InstructionFrame.raise (s : State) (rec : FaultRecord) : InstructionFrame s (s.raise rec) := by
  unfold InstructionFrame State.raise
  cases s.fault <;> rfl

theorem State.executing_frame {s t : State} {i : Instr} {places : List Location}
    {effect : Host.Outcome State Fault Refusal} (h : s.executing i places effect = .next t)
    (he : ∀ u, effect = .next u → InstructionFrame s u) : InstructionFrame s t := by
  rcases State.executing_cases h with ⟨-, rfl⟩ | ⟨-, l, -, -, rfl⟩ | ⟨-, -, h1⟩
  · exact InstructionFrame.raise s _
  · exact InstructionFrame.raise s _
  · exact he t h1

theorem InstructionFrame.requestJump {s t : State} (target : BitVec 16) (h : InstructionFrame s t) :
    InstructionFrame s (t.requestJump target) := by
  unfold InstructionFrame at *
  rw [State.requestJump_only_lanes, h]

theorem InstructionFrame.requestRounding {s t : State} (mode : BitVec 2) (h : InstructionFrame s t) :
    InstructionFrame s (t.requestRounding mode) := by
  unfold InstructionFrame at *
  rw [State.requestRounding_only_lanes, h]

/-- Every instruction keeps the frame. -/
theorem exec_frame {i : Instr} {s t : State} (h : exec i s = .next t) : InstructionFrame s t := by
  cases i with
  | cbranch w =>
    refine State.executing_frame h fun u hu => ?_
    split at hu
    · split at hu
      · simp only [Host.Outcome.next.injEq] at hu
        subst hu
        split
        · exact InstructionFrame.requestJump _ rfl
        · rfl
      · simp only [State.faultWord, Host.Outcome.next.injEq] at hu
        exact hu ▸ InstructionFrame.raise s _
    · simp only [State.faultWord, Host.Outcome.next.injEq] at hu
      exact hu ▸ InstructionFrame.raise s _
  | cfround w =>
    refine State.executing_frame h fun u hu => ?_
    simp only [Host.Outcome.next.injEq] at hu
    exact hu ▸ InstructionFrame.requestRounding _ rfl
  | fswapR w =>
    simp only [exec, execFswapR] at h
    split at h
    · refine State.executing_frame h fun u hu => ?_
      simp only [Host.Outcome.next.injEq] at hu
      subst hu; rfl
    · refine State.executing_frame h fun u hu => ?_
      simp only [Host.Outcome.next.injEq] at hu
      subst hu; rfl
  | _ =>
    refine State.executing_frame h fun u hu => ?_
    simp only [Host.Outcome.next.injEq] at hu
    subst hu; rfl

end Sys2Proof.Machine
end

