-- ==== Sys2Proof/Laws/PerInstr.lean ====
section
/-! SUPPORT. The family of statements proved instruction by instruction (LAWS.json): every constructor is the
instruction of its own opcode number and fields, and its number is none of the reserved ones (R126). -/

namespace Sys2Proof.Laws.OpcodeNumbering

/-- An instruction is the one its opcode number and fields name, and its number is below the reserved 30 and 31
(R126). -/
def Statement (i : Instr) : Prop := Instr.ofOpcode i.opcode i.fields = some i ∧ i.opcode < 30

theorem iaddRs (w : Fields) : Statement (.iaddRs w) := ⟨rfl, by simp [Instr.opcode]⟩

theorem iaddM (w : Fields) : Statement (.iaddM w) := ⟨rfl, by simp [Instr.opcode]⟩

theorem isubR (w : Fields) : Statement (.isubR w) := ⟨rfl, by simp [Instr.opcode]⟩

theorem isubM (w : Fields) : Statement (.isubM w) := ⟨rfl, by simp [Instr.opcode]⟩

theorem imulR (w : Fields) : Statement (.imulR w) := ⟨rfl, by simp [Instr.opcode]⟩

theorem imulM (w : Fields) : Statement (.imulM w) := ⟨rfl, by simp [Instr.opcode]⟩

theorem imulhR (w : Fields) : Statement (.imulhR w) := ⟨rfl, by simp [Instr.opcode]⟩

theorem imulhM (w : Fields) : Statement (.imulhM w) := ⟨rfl, by simp [Instr.opcode]⟩

theorem ismulhR (w : Fields) : Statement (.ismulhR w) := ⟨rfl, by simp [Instr.opcode]⟩

theorem ismulhM (w : Fields) : Statement (.ismulhM w) := ⟨rfl, by simp [Instr.opcode]⟩

theorem imulRcp (w : Fields) : Statement (.imulRcp w) := ⟨rfl, by simp [Instr.opcode]⟩

theorem inegR (w : Fields) : Statement (.inegR w) := ⟨rfl, by simp [Instr.opcode]⟩

theorem ixorR (w : Fields) : Statement (.ixorR w) := ⟨rfl, by simp [Instr.opcode]⟩

theorem ixorM (w : Fields) : Statement (.ixorM w) := ⟨rfl, by simp [Instr.opcode]⟩

theorem irorR (w : Fields) : Statement (.irorR w) := ⟨rfl, by simp [Instr.opcode]⟩

theorem irolR (w : Fields) : Statement (.irolR w) := ⟨rfl, by simp [Instr.opcode]⟩

theorem iswapR (w : Fields) : Statement (.iswapR w) := ⟨rfl, by simp [Instr.opcode]⟩

theorem fswapR (w : Fields) : Statement (.fswapR w) := ⟨rfl, by simp [Instr.opcode]⟩

theorem faddR (w : Fields) : Statement (.faddR w) := ⟨rfl, by simp [Instr.opcode]⟩

theorem faddM (w : Fields) : Statement (.faddM w) := ⟨rfl, by simp [Instr.opcode]⟩

theorem fsubR (w : Fields) : Statement (.fsubR w) := ⟨rfl, by simp [Instr.opcode]⟩

theorem fsubM (w : Fields) : Statement (.fsubM w) := ⟨rfl, by simp [Instr.opcode]⟩

theorem fscalR (w : Fields) : Statement (.fscalR w) := ⟨rfl, by simp [Instr.opcode]⟩

theorem fmulR (w : Fields) : Statement (.fmulR w) := ⟨rfl, by simp [Instr.opcode]⟩

theorem fdivM (w : Fields) : Statement (.fdivM w) := ⟨rfl, by simp [Instr.opcode]⟩

theorem fsqrtR (w : Fields) : Statement (.fsqrtR w) := ⟨rfl, by simp [Instr.opcode]⟩

theorem cbranch (w : Fields) : Statement (.cbranch w) := ⟨rfl, by simp [Instr.opcode]⟩

theorem cfround (w : Fields) : Statement (.cfround w) := ⟨rfl, by simp [Instr.opcode]⟩

theorem istore (w : Fields) : Statement (.istore w) := ⟨rfl, by simp [Instr.opcode]⟩

theorem nop (w : Fields) : Statement (.nop w) := ⟨rfl, by simp [Instr.opcode]⟩

end Sys2Proof.Laws.OpcodeNumbering
end

