-- ==== Sys2Proof/Laws/Run.lean ====
section
/-! SUPPORT. Runs of many steps (R458, R460) and the host's duties (R426): what one step adds, and how runs and lists of
interactions are put together. -/

namespace Sys2Proof.Machine

/-! ### Steps -/

@[simp] theorem State.stepN_zero (s : State) : s.stepN 0 = some s := rfl

theorem State.stepN_succ_of_next {s t : State} (k : Nat) (h : step s = .next t) : s.stepN (k + 1) = t.stepN k := by
  simp [State.stepN, h]

/-- A run of one step more begins with a step. -/
theorem State.stepN_succ_cases {s u : State} {k : Nat} (h : s.stepN (k + 1) = some u) :
    ∃ t, step s = .next t ∧ t.stepN k = some u := by
  simp only [State.stepN] at h
  split at h
  · next t ht => exact ⟨t, ht, h⟩
  · cases h
  · cases h

/-- Runs follow one another. -/
theorem State.stepN_add (s : State) (j k : Nat) : s.stepN (j + k) = (s.stepN j).bind (State.stepN k) := by
  induction j generalizing s with
  | zero => simp
  | succ j ih =>
    rw [Nat.succ_add]
    simp only [State.stepN]
    split
    · exact ih _
    · rfl
    · rfl

/-- A run of one dispatch step more begins with a step of the interpreter in DISPATCH. -/
theorem State.groupsN_succ_cases {s u : State} {k : Nat} (h : s.groupsN (k + 1) = some u) :
    s.agent = .interpret ∧ s.phase = .dispatch ∧ ∃ t, step s = .next t ∧ t.groupsN k = some u := by
  simp only [State.groupsN] at h
  split at h
  · next hd =>
    refine ⟨hd.1, hd.2, ?_⟩
    split at h
    · next t ht => exact ⟨t, ht, h⟩
    · cases h
    · cases h
  · cases h

/-- Dispatch steps are steps. -/
theorem State.stepN_of_groupsN {s t : State} {k : Nat} (h : s.groupsN k = some t) : s.stepN k = some t := by
  induction k generalizing s with
  | zero => exact h
  | succ k ih =>
    obtain ⟨-, -, u, hu, hk⟩ := State.groupsN_succ_cases h
    rw [State.stepN_succ_of_next k hu]
    exact ih hk

/-! ### Runs with fuel -/

/-- An invariant that every step keeps holds at every state of a run. -/
theorem State.stepN_keeps {Inv : State → Prop} (keeps : ∀ s t, Inv s → step s = .next t → Inv t) {s t : State} {k : Nat}
    (hi : Inv s) (h : s.stepN k = some t) : Inv t := by
  induction k generalizing s with
  | zero => cases h; exact hi
  | succ k ih =>
    obtain ⟨u, hu, hk⟩ := State.stepN_succ_cases h
    exact ih (keeps s u hi hu) hk

/-- A run that is over needs no more fuel. -/
theorem State.runFor_of_over {s : State} (fuel : Nat) (h : s.runOver = true) : s.runFor fuel = .over s := by
  cases fuel <;> simp [State.runFor, h]

/-- A run that is not over goes on with the step, one unit of fuel less. -/
theorem State.runFor_succ_of_next {s t : State} (fuel : Nat) (h : s.runOver = false) (ht : step s = .next t) :
    s.runFor (fuel + 1) = t.runFor fuel := by
  simp [State.runFor, h, ht]

/-! ### The host's duties -/

/-- What an interaction that breaks no duty is (R426, R453). -/
theorem HostStage.after_cases {p : Config.Params} {stage next : HostStage} {cmd : HostCmd}
    (h : stage.after p cmd = some next) :
    (∃ m, cmd = .startHash m ∧ (stage = .noHash ∨ stage = .between) ∧ next = .between) ∨
    (∃ m, cmd = .initScratchpad m ∧ (stage = .between ∨ stage = .program 0) ∧ next = stage) ∨
    (∃ m, cmd = .compile m ∧ stage = .between ∧ next = .program 0) ∨
    (∃ n first last rounds, cmd = .interpret n first last ∧ stage = .program rounds ∧ 1 ≤ n ∧
      rounds + n ≤ p.programIterations ∧ first = decide (rounds = 0) ∧
      last = decide (rounds + n = p.programIterations) ∧
      next = if rounds + n = p.programIterations then .between else .program (rounds + n)) := by
  cases cmd with
  | startHash m =>
    cases stage <;> simp [HostStage.after, HostStage.isBetween] at h ⊢ <;> exact h.2.symm
  | initScratchpad m =>
    cases stage <;> simp [HostStage.after, HostStage.ownsScratchpad] at h ⊢
    · exact h.2.symm
    · exact ⟨h.1.1, h.2.symm⟩
  | compile m =>
    cases stage <;> simp [HostStage.after, HostStage.isBetween] at h ⊢
    exact h.2.symm
  | interpret n first last =>
    cases stage with
    | noHash => cases h
    | between => cases h
    | program rounds =>
      simp only [HostStage.after] at h
      split at h
      · next hc =>
        simp only [Bool.and_eq_true, decide_eq_true_eq, beq_iff_eq] at hc
        exact .inr (.inr (.inr ⟨n, first, last, rounds, rfl, rfl, hc.1.1.1, hc.1.1.2, hc.1.2, hc.2,
          by simpa using h.symm⟩))
      · cases h

/-- Lists of interactions follow one another. -/
theorem HostStage.afterAll_append (p : Config.Params) (stage : HostStage) (xs ys : List HostCmd) :
    stage.afterAll p (xs ++ ys) = (stage.afterAll p xs).bind fun next => next.afterAll p ys := by
  induction xs generalizing stage with
  | nil => rfl
  | cons cmd rest ih =>
    simp only [List.cons_append, HostStage.afterAll]
    split
    · rfl
    · exact ih _

end Sys2Proof.Machine
end

