-- ==== Sys2Proof/Tests/Slice0.lean ====
section
/-! SUPPORT. Tests. Expected values come from spec/95_test_vectors, from the examples in the rules, or from the spec's
encoding tables by hand; each group's comment says which. Then, for every statement with hypotheses, a named witness
that something meets them. -/

-- One proof at a time: all of them at once ask for more threads than the check's memory limit gives.
set_option Elab.async false

namespace Sys2Proof.Tests

open Sys2Proof.Machine
open Sys2Proof.Config (RoundMode)

/-! ### Helpers -/

/-- Fields with counts 0. -/
def fields (dst src : Fin 8) (loc : Loc) (imm : Fin 256) (shift : Fin 4) : Fields := ⟨dst, src, loc, imm, shift, 0, 0⟩

/-- Register fields alone. -/
def regs (dst src : Fin 8) : Fields := fields dst src .file 0 0

/-- The observation of a next state. -/
def after {α : Type} (o : Host.Outcome State Fault Refusal) (g : State → α) : Option α :=
  match o with
  | .next t => some (g t)
  | .fault _ => none
  | .refused _ => none

/-- A small state in the middle of dispatching: decoded, seeded, three immediates, a program of one NOP. -/
def ready : State :=
  { State.reset with
    decoded := true
    seeded := true
    imm := [0xFFFFFFFF, 0x00080000, 0x40]
    prog := [0x00F40000]
    agent := .interpret
    phase := .dispatch }

/-- `ready` with two integer registers and one immediate. -/
def withRegs (i j : Fin 8) (x y : Word64) (imm : Word32) : State :=
  { (ready.setReg i x).setReg j y with imm := [imm, imm, imm] }

/-- `ready` with a word of scratchpad at 0x10, and immediate 0x10. -/
def withWord (x m : Word64) : State :=
  { ((ready.setReg 0 x).spWrite 0x10 m) with imm := [0x10] }

/-- `ready` with halves in `f[1]`, `e[1]` and `a[1]`, and a mode. -/
def withFloat (f e a : FReg) (mode : BitVec 2) : State :=
  { ready with
    f := ready.f.set 1 f, e := ready.e.set 1 e, a := ready.a.set 1 a
    fprc := mode, lanes := List.replicate 4 (.fresh 0 mode) }

/-! ### Well-formedness smoke: one ill-formed term per check of R132 -/

theorem test_wf_rejects_loc_on_register_form : (Instr.iaddRs (fields 0 1 .l1 0 0)).wellFormed = false := by decide
theorem test_wf_rejects_load_from_file : (Instr.iaddM (fields 0 1 .file 0 0)).wellFormed = false := by decide
theorem test_wf_rejects_l3_load_with_base : (Instr.ixorM (fields 0 1 .l3 0 0)).wellFormed = false := by decide
theorem test_wf_rejects_l1_load_with_same_register : (Instr.isubM (fields 2 2 .l1 0 0)).wellFormed = false := by decide
theorem test_wf_rejects_floating_load_from_l3 : (Instr.faddM (fields 0 0 .l3 0 0)).wellFormed = false := by decide
theorem test_wf_rejects_floating_load_from_file : (Instr.fdivM (fields 0 0 .file 0 0)).wellFormed = false := by decide
theorem test_wf_rejects_store_to_file : (Instr.istore (fields 0 0 .file 0 0)).wellFormed = false := by decide
theorem test_wf_rejects_floating_dst_4 : (Instr.faddR (regs 4 0)).wellFormed = false := by decide
theorem test_wf_rejects_group_a_src_4 : (Instr.fmulR (regs 0 4)).wellFormed = false := by decide
theorem test_wf_rejects_empty_group :
    (Instr.nop ⟨0, 0, .file, 0, 0, 0, 0⟩).wellFormedHead 4 = false := by decide
theorem test_wf_rejects_group_wider_than_lanes :
    (Instr.nop ⟨0, 0, .file, 0, 0, 5, 0⟩).wellFormedHead 4 = false := by decide
theorem test_wf_rejects_more_floating_than_words :
    (Instr.faddR ⟨0, 0, .file, 0, 0, 1, 2⟩).wellFormedHead 8 = false := by decide
theorem test_wf_rejects_too_many_lanes :
    (Instr.faddR ⟨0, 0, .file, 0, 0, 3, 2⟩).wellFormedHead 4 = false := by decide
theorem test_wf_accepts_one_floating_word_on_one_lane :
    (Instr.faddR ⟨0, 0, .file, 0, 0, 1, 1⟩).wellFormedHead 1 = true := by decide
theorem test_wf_accepts_fswap_dst_7 : (Instr.fswapR (regs 7 0)).wellFormed = true := by decide

/-! ### Decoding: a word per constructor, written out from R125 and R126

Bit groups, high to low: reserved 2, nf 3, n 4, op 5, shift 2, immIdx 8, loc 2, src 3, dst 3. -/

theorem test_decode_iaddRs : decodeWord 0b00_000_0011_00000_01_00000000_00_001_010 =
    .ok (.iaddRs ⟨2, 1, .file, 0, 1, 3, 0⟩) := by decide
theorem test_decode_iaddM : decodeWord 0b00_000_0100_00001_00_00000100_01_010_011 =
    .ok (.iaddM ⟨3, 2, .l1, 4, 0, 4, 0⟩) := by decide
theorem test_decode_isubR : decodeWord 0b00_000_0011_00010_00_00000010_00_011_011 =
    .ok (.isubR ⟨3, 3, .file, 2, 0, 3, 0⟩) := by decide
theorem test_decode_isubM : decodeWord 0b00_000_0100_00011_00_00001010_10_010_111 =
    .ok (.isubM ⟨7, 2, .l2, 10, 0, 4, 0⟩) := by decide
theorem test_decode_imulR : decodeWord 0b00_000_0001_00100_00_00000000_00_111_110 =
    .ok (.imulR ⟨6, 7, .file, 0, 0, 1, 0⟩) := by decide
theorem test_decode_imulM : decodeWord 0b00_000_0001_00101_00_10111111_11_100_100 =
    .ok (.imulM ⟨4, 4, .l3, 191, 0, 1, 0⟩) := by decide
theorem test_decode_imulhR : decodeWord 0b00_000_0100_00110_00_00000000_00_001_011 =
    .ok (.imulhR ⟨3, 1, .file, 0, 0, 4, 0⟩) := by decide
theorem test_decode_imulhM : decodeWord 0b00_000_1000_00111_00_00000001_01_001_000 =
    .ok (.imulhM ⟨0, 1, .l1, 1, 0, 8, 0⟩) := by decide
theorem test_decode_ismulhR : decodeWord 0b00_000_0010_01000_00_00000000_00_110_101 =
    .ok (.ismulhR ⟨5, 6, .file, 0, 0, 2, 0⟩) := by decide
theorem test_decode_ismulhM : decodeWord 0b00_000_0100_01001_00_00000110_01_010_100 =
    .ok (.ismulhM ⟨4, 2, .l1, 6, 0, 4, 0⟩) := by decide
theorem test_decode_imulRcp : decodeWord 0b00_000_0100_01010_00_00000001_00_000_001 =
    .ok (.imulRcp ⟨1, 0, .file, 1, 0, 4, 0⟩) := by decide
theorem test_decode_inegR : decodeWord 0b00_000_0011_01011_00_00000000_00_000_100 =
    .ok (.inegR ⟨4, 0, .file, 0, 0, 3, 0⟩) := by decide
theorem test_decode_ixorR : decodeWord 0b00_000_0011_01100_00_00000001_00_001_001 =
    .ok (.ixorR ⟨1, 1, .file, 1, 0, 3, 0⟩) := by decide
theorem test_decode_ixorM : decodeWord 0b00_000_0100_01101_00_00001000_11_110_110 =
    .ok (.ixorM ⟨6, 6, .l3, 8, 0, 4, 0⟩) := by decide
theorem test_decode_irorR : decodeWord 0b00_000_0100_01110_00_00000000_00_001_101 =
    .ok (.irorR ⟨5, 1, .file, 0, 0, 4, 0⟩) := by decide
theorem test_decode_irolR : decodeWord 0b00_000_0100_01111_00_00001001_00_110_110 =
    .ok (.irolR ⟨6, 6, .file, 9, 0, 4, 0⟩) := by decide
theorem test_decode_iswapR : decodeWord 0b00_000_0100_10000_00_00000000_00_111_110 =
    .ok (.iswapR ⟨6, 7, .file, 0, 0, 4, 0⟩) := by decide
theorem test_decode_fswapR : decodeWord 0b00_010_0010_10001_00_00000000_00_000_101 =
    .ok (.fswapR ⟨5, 0, .file, 0, 0, 2, 2⟩) := by decide
theorem test_decode_faddR : decodeWord 0b00_001_0011_10010_00_00000000_00_010_001 =
    .ok (.faddR ⟨1, 2, .file, 0, 0, 3, 1⟩) := by decide
theorem test_decode_faddM : decodeWord 0b00_001_0011_10011_00_00000110_01_010_010 =
    .ok (.faddM ⟨2, 2, .l1, 6, 0, 3, 1⟩) := by decide
theorem test_decode_fsubR : decodeWord 0b00_100_1000_10100_00_00000000_00_011_000 =
    .ok (.fsubR ⟨0, 3, .file, 0, 0, 8, 4⟩) := by decide
theorem test_decode_fsubM : decodeWord 0b00_010_0010_10101_00_00000010_01_010_001 =
    .ok (.fsubM ⟨1, 2, .l1, 2, 0, 2, 2⟩) := by decide
theorem test_decode_fscalR : decodeWord 0b00_010_0010_10110_00_00000000_00_000_001 =
    .ok (.fscalR ⟨1, 0, .file, 0, 0, 2, 2⟩) := by decide
theorem test_decode_fmulR : decodeWord 0b00_010_0010_10111_00_00000000_00_001_000 =
    .ok (.fmulR ⟨0, 1, .file, 0, 0, 2, 2⟩) := by decide
theorem test_decode_fdivM : decodeWord 0b00_010_0010_11000_00_00000011_10_010_001 =
    .ok (.fdivM ⟨1, 2, .l2, 3, 0, 2, 2⟩) := by decide
theorem test_decode_fsqrtR : decodeWord 0b00_010_0010_11001_00_00000000_00_000_011 =
    .ok (.fsqrtR ⟨3, 0, .file, 0, 0, 2, 2⟩) := by decide
theorem test_decode_cbranch : decodeWord 0b00_000_0010_11010_00_00000100_00_000_111 =
    .ok (.cbranch ⟨7, 0, .file, 4, 0, 2, 0⟩) := by decide
theorem test_decode_cfround : decodeWord 0b00_000_0100_11011_00_00000001_00_001_000 =
    .ok (.cfround ⟨0, 1, .file, 1, 0, 4, 0⟩) := by decide
theorem test_decode_istore : decodeWord 0b00_000_0100_11100_00_00000111_11_100_101 =
    .ok (.istore ⟨5, 4, .l3, 7, 0, 4, 0⟩) := by decide
theorem test_decode_nop : decodeWord 0b00_000_0100_11101_00_00000000_00_000_000 =
    .ok (.nop ⟨0, 0, .file, 0, 0, 4, 0⟩) := by decide
theorem test_decode_rejects_bit_31 : decodeWord 0x80000000 = .error .reservedBits := by decide
theorem test_decode_rejects_bit_30 : decodeWord 0x40F40000 = .error .reservedBits := by decide
theorem test_decode_rejects_opcode_30 : decodeWord 0x00F80000 = .error .reservedOpcode := by decide
theorem test_decode_rejects_opcode_31 : decodeWord 0x00FC0000 = .error .reservedOpcode := by decide
theorem test_decode_rejects_short_input : decode [0x00, 0x00, 0xF4] = .error .truncated := by decide
theorem test_decode_is_little_endian :
    decode [0x51, 0x02, 0x54, 0x11, 0xAA] = .ok (.fsubM ⟨1, 2, .l1, 2, 0, 2, 2⟩, [0xAA]) := by decide
theorem test_encode_word_of_p1 : encodeWord (.iaddRs ⟨5, 1, .file, 3, 0, 3, 0⟩) = 0x0180030D := by decide

/-- The decoder reads a table row's word. -/
theorem test_table_word : decodeTableWord 32 0x02740000 = some (.nop ⟨0, 0, .file, 0, 0, 4, 0⟩) := by decide

/-- A loaded ISUB_R r1, imm is fetched and run by the very next step after reset. -/
theorem test_loaded_word_is_fetched_and_run :
    after (step (State.reset.withFetchWord 32 0x00080009)) (fun t => (t.pc, t.phase, t.reg 1, t.fault)) =
      some (2, .writeback, 0xFFFFFFFFFFF80000, none) := by
  decide +kernel

/-! Raw decoding: V-ENC-1 to V-ENC-22. -/

theorem test_raw_classes :
    [0x00, 0x0F, 0x10, 0x16, 0x17, 0x26, 0x73, 0x74, 0x78, 0x46, 0x7B, 0x7C, 0x8B, 0xCA, 0xD0, 0xD6, 0xEE, 0xEF, 0xF0,
      0xFF].map (rawClassOf Config.defaultFreq) =
    ([.iaddRs, .iaddRs, .iaddM, .iaddM, .isubR, .isubR, .irolR, .iswapR, .fswapR, .imulhM, .fswapR, .faddR, .faddR,
      .fmulR, .fsqrtR, .cbranch, .cbranch, .cfround, .istore, .istore] : List RawClass).map some := by
  decide
theorem test_raw_fields :
    decodeRaw Config.defaultFreq 0x001FFFF8E00405F0 = some ⟨.istore, 5, 4, 0, 0, 14, 0x001FFFF8⟩ := by decide
theorem test_raw_dst_byte_high_bits_ignored :
    (decodeRaw Config.defaultFreq 0x000000000000FD00).map (·.dst) = some 5 := by decide

/-! ### Integer instructions: V-INT-1 to V-INT-38 -/

theorem test_iaddRs_shift :
    after (exec (.iaddRs (fields 1 2 .file 0 2)) (withRegs 1 2 0x10 3 0)) (·.reg 1) = some 0x1C := by decide +kernel
theorem test_iaddRs_register_5 :
    after (exec (.iaddRs (fields 5 2 .file 0 3)) (withRegs 5 2 0x10 3 0xFFFFFFFF)) (·.reg 5) = some 0x27 := by
  decide +kernel
theorem test_iaddM_wraps : after (exec (.iaddM (fields 0 1 .l1 0 0)) (withWord 1 0xFFFFFFFFFFFFFFFF)) (·.reg 0) =
    some 0 := by decide +kernel
theorem test_isubR_immediate : after (exec (.isubR (regs 3 3)) (withRegs 3 0 5 0 7)) (·.reg 3) =
    some 0xFFFFFFFFFFFFFFFE := by decide +kernel
theorem test_isubR_register : after (exec (.isubR (regs 0 1)) (withRegs 0 1 0 1 7)) (·.reg 0) =
    some 0xFFFFFFFFFFFFFFFF := by decide +kernel
theorem test_isubM : after (exec (.isubM (fields 0 1 .l1 0 0)) (withWord 0 1)) (·.reg 0) =
    some 0xFFFFFFFFFFFFFFFF := by decide +kernel
theorem test_imulR_wraps : after (exec (.imulR (regs 1 2)) (withRegs 1 2 0x100000000 0x100000000 0)) (·.reg 1) =
    some 0 := by decide +kernel
theorem test_imulR_immediate_is_signed : after (exec (.imulR (regs 1 1)) (withRegs 1 0 3 0 0xFFFFFFFD)) (·.reg 1) =
    some 0xFFFFFFFFFFFFFFF7 := by decide +kernel
theorem test_imulM : after (exec (.imulM (fields 0 1 .l1 0 0)) (withWord 2 0x8000000000000000)) (·.reg 0) =
    some 0 := by decide +kernel
theorem test_imulhR : after (exec (.imulhR (regs 1 2)) (withRegs 1 2 (-1) (-1) 0)) (·.reg 1) =
    some 0xFFFFFFFFFFFFFFFE := by decide +kernel
theorem test_imulhM : after (exec (.imulhM (fields 0 1 .l1 0 0)) (withWord 0x8000000000000000 4)) (·.reg 0) =
    some 2 := by decide +kernel
theorem test_ismulhR_minus_one : after (exec (.ismulhR (regs 1 2)) (withRegs 1 2 (-1) 1 0)) (·.reg 1) =
    some 0xFFFFFFFFFFFFFFFF := by decide +kernel
theorem test_ismulhR_extremes :
    after (exec (.ismulhR (regs 1 2)) (withRegs 1 2 0x8000000000000000 0x8000000000000000 0)) (·.reg 1) =
      some 0x4000000000000000 := by decide +kernel
theorem test_ismulhM : after (exec (.ismulhM (fields 0 1 .l1 0 0)) (withWord (-1) 2)) (·.reg 0) =
    some 0xFFFFFFFFFFFFFFFF := by decide +kernel
theorem test_imulRcp_three :
    after (exec (.imulRcp (regs 1 0)) (withRegs 1 0 3 0 0xAAAAAAAA)) (·.reg 1) = some 0xFFFFFFFFFFFFFFFE := by
  decide +kernel
theorem test_imulRcp_entry_order :
    after (exec (.imulRcp (regs 1 0)) { ready.setReg 1 0x64 with imm := [0x49249249, 0x92492492] }) (·.reg 1) =
      some 0x2492492492492484 := by decide +kernel
theorem test_inegR : after (exec (.inegR (regs 2 0)) (withRegs 2 0 1 0 0)) (·.reg 2) = some 0xFFFFFFFFFFFFFFFF := by
  decide +kernel
theorem test_inegR_most_negative :
    after (exec (.inegR (regs 2 0)) (withRegs 2 0 0x8000000000000000 0 0)) (·.reg 2) = some 0x8000000000000000 := by
  decide +kernel
theorem test_ixorR_immediate_is_signed : after (exec (.ixorR (regs 4 4)) (withRegs 4 0 0 0 0x80000000)) (·.reg 4) =
    some 0xFFFFFFFF80000000 := by decide +kernel
theorem test_ixorM : after (exec (.ixorM (fields 0 1 .l1 0 0)) (withWord 0xFF 0x0F)) (·.reg 0) = some 0xF0 := by
  decide +kernel
theorem test_irorR_immediate_modulo_64 :
    after (exec (.irorR (regs 1 1)) (withRegs 1 0 0x123456789ABCDEF0 0 0x44)) (·.reg 1) =
      some 0x0123456789ABCDEF := by decide +kernel
theorem test_irorR_register_modulo_64 :
    after (exec (.irorR (regs 1 2)) (withRegs 1 2 0x123456789ABCDEF0 0x41 0)) (·.reg 1) =
      some 0x091A2B3C4D5E6F78 := by decide +kernel
theorem test_irolR : after (exec (.irolR (regs 1 1)) (withRegs 1 0 0x8000000000000001 0 4)) (·.reg 1) = some 0x18 := by
  decide +kernel
theorem test_iswapR : after (exec (.iswapR (regs 1 2)) (withRegs 1 2 1 2 0)) (fun t => (t.reg 1, t.reg 2)) =
    some (2, 1) := by decide +kernel
theorem test_nop_changes_nothing : exec (.nop (regs 3 4)) ready = .next ready := rfl

/-! ### Memory addressing: V-MEM-1 to V-MEM-8 -/

theorem test_effective_addresses :
    [effAddr 0xFFFFFFFFFFFFFFF0 0x20 .l1, effAddr 0x12345 7 .l2, effAddr 0x100 0xFFFFFFF8 .l1, effAddr 0x7FFFFFFF 0 .l3,
      effAddr 0 0xFFFFFFFF .l1, effAddr 0xFFFFFFFFFFFFFFFF 1 .l2, effAddrImm 0xFFFFFFFF, effAddrImm 0x80000007] =
    [0x10, 0x12348, 0xF8, 0x1FFFF8, 0x3FF8, 0, 0x1FFFF8, 0] := by decide +kernel

/-! ### Floating instructions: V-FLT-1 to V-FLT-18 -/

theorem test_conversions : [0, 1, 0xFFFFFFFF, 0x80000000, 0x7FFFFFFF].map cvtI32 =
    [0, 0x3FF0000000000000, 0xBFF0000000000000, 0xC1E0000000000000, 0x41DFFFFFFFC00000] := by decide +kernel

/-- The four directions in the order of R44's codes. -/
def fourModes (op : RoundMode → Word64) : List Word64 := [op .nearestEven, op .down, op .up, op .zero]

theorem test_fadd_negative_tie : fourModes (fadd · 0xBFF0000000000000 0xBCA0000000000000) =
    [0xBFF0000000000000, 0xBFF0000000000001, 0xBFF0000000000000, 0xBFF0000000000000] := by decide +kernel
theorem test_fadd_overflow : fourModes (fadd · 0x7FEFFFFFFFFFFFFF 0x7FEFFFFFFFFFFFFF) =
    [0x7FF0000000000000, 0x7FEFFFFFFFFFFFFF, 0x7FF0000000000000, 0x7FEFFFFFFFFFFFFF] := by decide +kernel
theorem test_fadd_negative_overflow : fourModes (fadd · 0xFFEFFFFFFFFFFFFF 0xFFEFFFFFFFFFFFFF) =
    [0xFFF0000000000000, 0xFFF0000000000000, 0xFFEFFFFFFFFFFFFF, 0xFFEFFFFFFFFFFFFF] := by decide +kernel
theorem test_fadd_subnormals : fourModes (fadd · 1 1) ++ fourModes (fadd · 0x000FFFFFFFFFFFFF 1) =
    [2, 2, 2, 2, 0x0010000000000000, 0x0010000000000000, 0x0010000000000000, 0x0010000000000000] := by decide +kernel
theorem test_emask : [0xBFF0000000000000, 0xC1E0000000000000, 0].map (maskE · 0x3000000000000000) =
    [0x30F0000000000000, 0x30E0000000000000, 0x3000000000000000] := by decide +kernel

theorem test_fswapR_f : after (exec (.fswapR (regs 1 0)) (withFloat ⟨1, 2⟩ ⟨3, 4⟩ ⟨0, 0⟩ 0))
    (fun t => (t.fReg 1, t.eReg 1)) = some (⟨2, 1⟩, ⟨3, 4⟩) := by decide +kernel
theorem test_fswapR_e : after (exec (.fswapR (regs 5 0)) (withFloat ⟨1, 2⟩ ⟨3, 4⟩ ⟨0, 0⟩ 0))
    (fun t => (t.fReg 1, t.eReg 1)) = some (⟨1, 2⟩, ⟨4, 3⟩) := by decide +kernel
theorem test_faddR_halves_and_mode :
    after (exec (.faddR (regs 1 1)) (withFloat ⟨0x3CA0000000000000, 0x3FF0000000000000⟩ ⟨0, 0⟩
      ⟨0x3FF0000000000000, 0x3FF0000000000000⟩ 2)) (·.fReg 1) =
    some ⟨0x3FF0000000000001, 0x4000000000000000⟩ := by decide +kernel
theorem test_faddM : after (exec (.faddM (fields 1 2 .l1 0 0)) { ((withFloat ⟨0x3FF0000000000000, 0x3FF0000000000000⟩
      ⟨0, 0⟩ ⟨0, 0⟩ 1).spWrite 0x40 0xFFFFFFFF00000001) with imm := [0x40] }) (·.fReg 1) =
    some ⟨0x4000000000000000, 0x8000000000000000⟩ := by decide +kernel
theorem test_fsubR_zero_sign : after (exec (.fsubR (regs 1 1)) (withFloat ⟨0x3FF0000000000000, 0x3FF0000000000000⟩
      ⟨0, 0⟩ ⟨0x3FF0000000000000, 0x4000000000000000⟩ 1)) (·.fReg 1) =
    some ⟨0x8000000000000000, 0xBFF0000000000000⟩ := by decide +kernel
theorem test_fsubM : after (exec (.fsubM (fields 1 2 .l2 0 0)) { ((withFloat ⟨0x3FF0000000000000, 0⟩ ⟨0, 0⟩ ⟨0, 0⟩ 0
      ).spWrite 0x40 1) with imm := [0x40] }) (fun t => (t.fReg 1).lo) = some 0 := by decide +kernel
theorem test_fscalR : after (exec (.fscalR (regs 1 0)) (withFloat ⟨0x3FF0000000000000, 0⟩ ⟨0, 0⟩ ⟨0, 0⟩ 0)) (·.fReg 1) =
    some ⟨0xBF00000000000000, 0x80F0000000000000⟩ := by decide +kernel
theorem test_fmulR : after (exec (.fmulR (regs 1 1)) (withFloat ⟨0, 0⟩ ⟨0x3000000000000000, 0x3FF0000000000000⟩
      ⟨0x4008000000000000, 0x3FF0000000000000⟩ 0)) (·.eReg 1) =
    some ⟨0x3018000000000000, 0x3FF0000000000000⟩ := by decide +kernel
theorem test_fdivM_masks_the_divisor :
    after (exec (.fdivM (fields 1 2 .l1 0 0)) { ((withFloat ⟨0, 0⟩ ⟨0x30F0000000000000, 0x30F0000000000000⟩ ⟨0, 0⟩ 0
      ).spWrite 0x40 0x100000003) with imm := [0x40] }) (·.eReg 1) =
    some ⟨0x40D5555555555555, 0x3FF0000000000000⟩ := by decide +kernel
theorem test_fsqrtR : after (exec (.fsqrtR (regs 1 0)) (withFloat ⟨0, 0⟩ ⟨0x4000000000000000, 0x3010000000000000⟩
      ⟨0, 0⟩ 3)) (·.eReg 1) = some ⟨0x3FF6A09E667F3BCC, 0x3800000000000000⟩ := by decide +kernel

/-! ### Control and store: V-CTL-1 to V-CTL-15 -/

/-- A CBRANCH state: the register, its immediate, its second entry, on lane 0. -/
def branchState (x : Word64) (cimm second : Word32) : State := { ready.setReg 3 x with imm := [cimm, second] }

/-- What a CBRANCH on register 3 does: the register, and lane 0's request. -/
def branchEffect (x : Word64) (cimm second : Word32) : Option (Word64 × Option (Bool × BitVec 16)) :=
  after (exec (.cbranch (regs 3 0)) (branchState x cimm second))
    (fun t => (t.reg 3, (t.lanes[0]?).map fun l => (l.jreq, l.jtgt)))

theorem test_cbranch_taken : branchEffect 0xFFFFFFFFFFFFFF00 0x100 0x00080000 = some (0, some (true, 0)) := by
  decide +kernel
theorem test_cbranch_not_taken : branchEffect 0 0x100 0x00080000 = some (0x100, some (false, 0)) := by decide +kernel
theorem test_cbranch_high_field :
    branchEffect 0xFFFFFFFF7F800000 0x800000 0x00170000 = some (0xFFFFFFFF80000000, some (true, 0)) := by
  decide +kernel
theorem test_cbranch_bad_entry : after (exec (.cbranch (regs 3 0)) (branchState 0 0x100 0x00280000)) (·.fault) =
    some (some (.badWord 0 0 0x00680003)) := by decide +kernel
theorem test_cbranch_bad_target : after (exec (.cbranch (regs 3 0)) (branchState 0 0x100 0x00080001)) (·.fault) =
    some (some (.badTarget 0 0 1)) := by decide +kernel

/-- The mode a CFROUND on register 1 requests on lane 0. -/
def roundEffect (x : Word64) (imm : Word32) : Option (Option (Bool × BitVec 2)) :=
  after (exec (.cfround (regs 0 1)) (withRegs 1 1 x x imm)) (fun t => (t.lanes[0]?).map fun l => (l.rreq, l.rval))

theorem test_cfround : [roundEffect 6 1, roundEffect 0x8000000000000000 63, roundEffect 3 0, roundEffect 0x10 4,
      roundEffect 0xC 2] =
    [some (some (true, 3)), some (some (true, 1)), some (some (true, 3)), some (some (true, 1)),
      some (some (true, 3))] := by decide +kernel
theorem test_istore_l1 : after (exec (.istore (fields 2 3 .l1 0 0)) (withRegs 2 3 0x100 0x1122334455667788 0xFFFFFFF8))
    (·.scratch) = some [(0xF8, 0x88), (0xF9, 0x77), (0xFA, 0x66), (0xFB, 0x55), (0xFC, 0x44), (0xFD, 0x33),
      (0xFE, 0x22), (0xFF, 0x11)] := by decide +kernel
theorem test_istore_l3_adds_the_base : after (exec (.istore (fields 2 3 .l3 0 0)) (withRegs 2 3 0x7FFFFFFF 1 0))
    (·.scratch) = some [(0x1FFFF8, 1)] := by decide +kernel

/-! ### Compile engine: V-DEC and V-SCH -/

theorem test_small_positive_floats : [0, 1, 0x0800000000000000, 0x7800000000000000, 0xFFFFFFFFFFFFFFFF].map
      smallPositiveFloat =
    [0x3FF0000000000000, 0x3FF0000000000001, 0x4000000000000000, 0x40E0000000000000, 0x41EFFFFFFFFFFFFF] := by
  decide +kernel
theorem test_exponent_masks : [0, 0xF000000000000000, 0x3FFFFF, 0x123456789ABCDEF0].map exponentMask =
    [0x3000000000000000, 0x3F00000000000000, 0x30000000003FFFFF, 0x31000000003CDEF0] := by decide +kernel
theorem test_selectors : indices4.map (readSelector 5) ++ indices4.map (readSelector 0xF) =
    [1, 2, 5, 6, 1, 3, 5, 7] := by decide +kernel
theorem test_reciprocals : [3, 5, 7, 6, 0xFFFFFFFF, 0x80000001].map reciprocal =
    [0xAAAAAAAAAAAAAAAA, 0xCCCCCCCCCCCCCCCC, 0x9249249249249249, 0xAAAAAAAAAAAAAAAA, 0x8000000080000000,
      0xFFFFFFFE00000003] := by decide +kernel
theorem test_degenerate_divisors : [1, 2, 8, 0x80000000, 0, 3].map degenerateDivisor =
    [true, true, true, true, true, false] := by decide +kernel

/-- A raw CBRANCH. -/
def rawBranch (cond : Fin 16) (imm : Word32) : RawInstr := ⟨.cbranch, 3, 0, 0, 0, cond, imm⟩

theorem test_cbranch_immediates : [rawBranch 0 0, rawBranch 0 0xFFFFFF00, rawBranch 15 0, rawBranch 15 0x7FFFFFFF,
      rawBranch 3 0x80000000].map cbranchImm =
    [0x100, 0xFFFFFFFFFFFFFF00, 0x800000, 0x7FBFFFFF, 0xFFFFFFFF80000800] := by decide +kernel

/-- The register-write history of V-SCH-1. -/
def sampleHistory : Bank8 RegHist :=
  ⟨⟨3, true, 0⟩, ⟨-1, false, 0⟩, ⟨7, true, 0⟩, ⟨-1, false, 0⟩, ⟨2, true, 0⟩, ⟨9, true, 0⟩, ⟨-1, false, 0⟩,
    ⟨5, true, 0⟩⟩

/-- The compile engine with that history. -/
def sampleCompiler : Compiler := { Compiler.initial with hist := sampleHistory }

theorem test_condition_register : ((sampleCompiler.pass1 Config.defaultParams 10 (rawBranch 0 0)).branches,
      ((sampleCompiler.pass1 Config.defaultParams 10 (rawBranch 0 0)).pass1 Config.defaultParams 11
        (rawBranch 0 0)).branches) = ([⟨10, 1, 0⟩], [⟨11, 0, 11⟩, ⟨10, 1, 0⟩]) := by decide +kernel

/-! ### Groups and faults: V-FLT-FAULT-1, V-FAULT-2 to V-FAULT-7, the lowest lane -/

/-- `ready` with another program. -/
def running (prog : List Word32) : State := { ready with prog := prog }

theorem test_group_conflict_on_fprc : after (step (running [0x09480000, 0x096C0008])) (·.fault) =
    some (some (.groupConflict 0 0 1 .fprc)) := by decide +kernel
theorem test_reserved_opcode_faults : after (step (running [0x00F80000])) (·.fault) =
    some (some (.badWord 0 0 0x00F80000)) := by decide +kernel
theorem test_empty_group_faults : after (step (running [0x00740000])) (·.fault) =
    some (some (.badWord 0 0 0x00740000)) := by decide +kernel
theorem test_group_past_the_program_faults : after (step (running [0x01740000])) (·.fault) =
    some (some (.pcRange 0 2)) := by decide +kernel
theorem test_unwritten_immediate_faults : after (step (running [0x00B00309])) (·.fault) =
    some (some (.unwrittenRead 0 0 (.imm 3))) := by decide +kernel
theorem test_three_lanes_refused :
    step { ready with params := { Config.defaultParams with w := 3 } } = .refused .badConfiguration := rfl
theorem test_immediate_overflow : (Compiler.initial.pass2 Config.defaultParams (List.replicate 191 0) 96
    (rawBranch 0 0)).toOption.isNone = true := by decide +kernel
theorem test_faulted_instance_stops : step { ready with fault := some (.pcRange 0 0) } = .fault .instanceStopped := rfl

/-- V-RND-1: the seeding of P3, with the addresses of V-MEM-9. -/
def seedState : State :=
  { ((State.reset.spWrite 0x1CDEC0 0x0000000200000001).spWrite 0x1CDEC8 0xFFFFFFFF00000003).spWrite 0x1CDEE0
      0x0000000100000001 with
    decoded := true
    agent := .interpret
    phase := .seed
    prog := [0x00F40000]
    spAddr0 := 0x12345678
    spAddr1 := 0x1ABCDEC0 }

theorem test_seeding : after (step seedState) (fun t => (t.spAddr0, t.spAddr1, t.f, t.e)) =
    some (0x145640, 0x1CDEC0,
      ⟨⟨0x3FF0000000000000, 0x4000000000000000⟩, ⟨0x4008000000000000, 0xBFF0000000000000⟩, ⟨0, 0⟩, ⟨0, 0⟩⟩,
      ⟨⟨0x30F0000000000000, 0x30F0000000000000⟩, ⟨0x3000000000000000, 0x3000000000000000⟩,
        ⟨0x3000000000000000, 0x3000000000000000⟩, ⟨0x3000000000000000, 0x3000000000000000⟩⟩) := by decide +kernel

/-- V-RND-2: the scalars of P1's write-back. -/
def writebackState : State :=
  { (ready.setReg 5 0x25).setReg 6 3 with
    phase := .writeback
    pc := 1
    lanes := List.replicate 4 (.fresh 1 0)
    mx := 0x12345678
    ma := 0x1ABCDEC0
    readReg := ⟨1, 2, 5, 6⟩
    spAddr0 := 0x145640
    spAddr1 := 0x1CDEC0
    last := true }

theorem test_writeback_scalars : after (step writebackState) (fun t => (t.ma, t.mx, t.phase, t.round)) =
    some (0x12345640, 0x1ABCDEC0, .done, 1) := by decide +kernel

/-! ### Witnesses: for each statement with hypotheses, something that meets them all

A boundary value of each clause stands in the witness: the last written immediate (2 of 3) and the first without a
value (3), the last word of a program, the greatest bit position, a row at the end of the scratchpad. -/

/-- The step went on. -/
def goesOn (o : Host.Outcome State Fault Refusal) : Bool := (after o fun _ => ()).isSome

theorem exists_next_of_goesOn {o : Host.Outcome State Fault Refusal} (h : goesOn o = true) : ∃ t, o = .next t := by
  cases o with
  | next t => exact ⟨t, rfl⟩
  | fault r => exact absurd h (by simp [goesOn, after])
  | refused r => exact absurd h (by simp [goesOn, after])

theorem ready_dispatching : Dispatching ready := ⟨by decide, rfl, rfl, rfl, by decide⟩

theorem witness_StepRunsDecodedInstruction_completes :
    Dispatching ready ∧ ready.prog[ready.pc]? = some 0x00F40000 ∧
    decodeWord 0x00F40000 = .ok (.nop ⟨0, 0, .file, 0, 0, 1, 0⟩) ∧
    (Instr.nop ⟨0, 0, .file, 0, 0, 1, 0⟩).wellFormedHead ready.params.w = true ∧
    exec (.nop ⟨0, 0, .file, 0, 0, 1, 0⟩) (ready.withIssue (issueOf 4 0 0 0)) =
      .next (ready.withIssue (issueOf 4 0 0 0)) ∧
    (ready.withIssue (issueOf 4 0 0 0)).fault = none :=
  ⟨ready_dispatching, rfl, by decide, by decide, rfl, rfl⟩

/-- A program of one IXOR_R r1, imm whose entry, number 3, has no value. -/
def unwrittenState : State := running [0x00B00309]

theorem witness_StepRunsDecodedInstruction_faults :
    Dispatching unwrittenState ∧ unwrittenState.prog[0]? = some 0x00B00309 ∧
    decodeWord 0x00B00309 = .ok (.ixorR ⟨1, 1, .file, 3, 0, 1, 0⟩) ∧
    (Instr.ixorR ⟨1, 1, .file, 3, 0, 1, 0⟩).wellFormedHead 4 = true ∧
    (∃ t, exec (.ixorR ⟨1, 1, .file, 3, 0, 1, 0⟩) (unwrittenState.withIssue (issueOf 4 0 0 0)) = .next t ∧
      t.fault = some (.unwrittenRead 0 0 (.imm 3))) :=
  ⟨⟨by decide, rfl, rfl, rfl, by decide⟩, rfl, by decide, by decide, ⟨_, rfl, rfl⟩⟩

theorem witness_AddShiftedRegister_completes :
    (fields 5 2 .file 2 3).loc = .file ∧ ready.decoded = true ∧
    ((fields 5 2 .file 2 3).dst = 5 → (fields 5 2 .file 2 3).immIdx.val < ready.imm.length) := by decide

theorem witness_AddShiftedRegister_unwritten :
    (fields 5 2 .file 3 3).loc = .file ∧ ready.decoded = true ∧ (fields 5 2 .file 3 3).dst = 5 ∧
    ready.imm.length ≤ (fields 5 2 .file 3 3).immIdx.val := by decide

theorem witness_TwoOperandResults_register :
    (fields 1 2 .file 3 0).loc = .file ∧ ready.decoded = true ∧
    ((fields 1 2 .file 3 0).src = (fields 1 2 .file 3 0).dst →
      (fields 1 2 .file 3 0).immIdx.val < ready.imm.length) := by decide

theorem witness_TwoOperandResults_immediate :
    (fields 1 1 .file 2 0).loc = .file ∧ ready.decoded = true ∧ (fields 1 1 .file 2 0).src = 1 ∧
    (fields 1 1 .file 2 0).immIdx.val < ready.imm.length := by decide

theorem witness_TwoOperandResults_unwritten :
    (fields 1 1 .file 3 0).loc = .file ∧ ready.decoded = true ∧ (fields 1 1 .file 3 0).src = (fields 1 1 .file 3 0).dst ∧
    ready.imm.length ≤ (fields 1 1 .file 3 0).immIdx.val := by decide

theorem witness_RotateResults_register :
    (fields 6 7 .file 255 0).loc = .file ∧ ready.decoded = true ∧
    (fields 6 7 .file 255 0).src ≠ (fields 6 7 .file 255 0).dst := by decide

theorem witness_RotateResults_immediate :
    (fields 1 1 .file 2 0).loc = .file ∧ ready.decoded = true ∧
    ((fields 1 1 .file 2 0).src = (fields 1 1 .file 2 0).dst →
      (fields 1 1 .file 2 0).immIdx.val < ready.imm.length) := by decide

theorem witness_RotateResults_unwritten :
    (fields 7 7 .file 255 0).loc = .file ∧ ready.decoded = true ∧ (fields 7 7 .file 255 0).src = (fields 7 7 .file 255 0).dst ∧
    ready.imm.length ≤ (fields 7 7 .file 255 0).immIdx.val := by decide

theorem witness_MultiplyHighRegister : (regs 3 3).loc = .file ∧ ready.decoded = true := by decide

theorem witness_IntegerLoadResults_windows :
    (fields 0 1 .l1 2 0).loc ≠ .file ∧ ((fields 0 1 .l1 2 0).loc = .l3 ↔ (fields 0 1 .l1 2 0).src = 0) ∧
    ready.decoded = true ∧ (fields 0 1 .l1 2 0).immIdx.val < ready.imm.length := by decide

theorem witness_IntegerLoadResults_immediate_alone :
    (fields 4 4 .l3 2 0).loc ≠ .file ∧ ((fields 4 4 .l3 2 0).loc = .l3 ↔ (fields 4 4 .l3 2 0).src = 4) ∧
    ready.decoded = true ∧ (fields 4 4 .l3 2 0).immIdx.val < ready.imm.length := by decide

theorem witness_IntegerLoadResults_unwritten :
    (fields 0 1 .l2 3 0).loc ≠ .file ∧ ready.decoded = true ∧ ((fields 0 1 .l2 3 0).loc = .l3 ↔ (fields 0 1 .l2 3 0).src = 0) ∧
    ready.imm.length ≤ (fields 0 1 .l2 3 0).immIdx.val := by decide

theorem witness_IntegerLoadResults_illegal :
    ¬((fields 0 1 .l3 0 0).loc ≠ .file ∧ ((fields 0 1 .l3 0 0).loc = .l3 ↔ (fields 0 1 .l3 0 0).src = 0)) ∧
    ¬((fields 0 1 .file 0 0).loc ≠ .file) := by decide

theorem witness_MultiplyByReciprocal_completes :
    (fields 1 0 .file 1 0).loc = .file ∧ ready.decoded = true ∧
    (fields 1 0 .file 1 0).immIdx.val + 1 < ready.imm.length := by decide

theorem witness_MultiplyByReciprocal_unwritten :
    (fields 1 0 .file 3 0).loc = .file ∧ ready.decoded = true ∧ ready.imm.length ≤ (fields 1 0 .file 3 0).immIdx.val ∧
    ready.imm.length = (fields 1 0 .file 2 0).immIdx.val + 1 := by decide

theorem witness_MultiplyByReciprocal_divisors :
    ((3 : Word32) ≠ 0 ∧ ∀ k : Nat, (3 : Word32).toNat ≠ 2 ^ k) ∧ (∃ k : Nat, (0x80000000 : Word32).toNat = 2 ^ k) := by
  refine ⟨⟨by decide, fun k h => ?_⟩, ⟨31, by decide⟩⟩
  rcases k with _ | _ | k
  · exact absurd h (by decide)
  · exact absurd h (by decide)
  · have h3 : (3 : Word32).toNat = 3 := by decide
    rw [h3, Nat.pow_succ, Nat.pow_succ] at h
    omega

theorem witness_NegateSwapAndNop :
    (regs 3 3).loc = .file ∧ (regs 1 2).loc = .file ∧ ready.decoded = true ∧
    (⟨.iswapR, 2, 2, 0, 0, 0, 0⟩ : RawInstr).cls = .iswapR := by decide

theorem witness_SwapHalves :
    (regs 3 0).loc = .file ∧ ready.seeded = true ∧ (regs 3 0).dst.val = (3 : Fin 4).val ∧
    (regs 4 0).dst.val = 4 + (0 : Fin 4).val := by decide

theorem ready_uniform : UniformMode ready := by unfold UniformMode; decide

theorem witness_FloatAddSubRegister :
    (regs 3 0).loc = .file ∧ (regs 3 0).dst.val = (3 : Fin 4).val ∧ (regs 3 0).src.val = (0 : Fin 4).val ∧
    ready.decoded = true ∧ ready.seeded = true ∧ UniformMode ready ∧ (fpRat 0x3FF0000000000000).isSome = true :=
  ⟨rfl, rfl, rfl, rfl, rfl, ready_uniform, by simp [fpRat, fpDecode]⟩

theorem witness_FloatAddSubMemory_completes :
    ((fields 3 7 .l2 2 0).loc = .l1 ∨ (fields 3 7 .l2 2 0).loc = .l2) ∧
    (fields 3 7 .l2 2 0).dst.val = (3 : Fin 4).val ∧ ready.decoded = true ∧ ready.seeded = true ∧
    UniformMode ready ∧ (fields 3 7 .l2 2 0).immIdx.val < ready.imm.length :=
  ⟨.inr rfl, rfl, rfl, rfl, ready_uniform, by decide⟩

theorem witness_FloatAddSubMemory_unwritten :
    ((fields 0 7 .l1 3 0).loc = .l1 ∨ (fields 0 7 .l1 3 0).loc = .l2) ∧ (fields 0 7 .l1 3 0).dst.val = (0 : Fin 4).val ∧
    ready.decoded = true ∧ ready.seeded = true ∧
    ready.imm.length ≤ (fields 0 7 .l1 3 0).immIdx.val := by decide

theorem witness_ScaleAndNegate :
    (regs 3 0).loc = .file ∧ (regs 3 0).dst.val = (3 : Fin 4).val ∧ ready.seeded = true ∧
    (∃ t u, exec (.fscalR (regs 3 0)) ready = .next t ∧ exec (.fscalR (regs 3 0)) t = .next u) :=
  ⟨rfl, rfl, rfl, ⟨_, _, rfl, rfl⟩⟩

theorem witness_MultiplyAndRoot :
    (regs 3 3).loc = .file ∧ (regs 3 3).dst.val = (3 : Fin 4).val ∧ (regs 3 3).src.val = (3 : Fin 4).val ∧
    ready.seeded = true ∧ ready.decoded = true ∧ UniformMode ready ∧
    (∃ q : ℚ, fpRat 0xBFF0000000000000 = some q ∧ q < 0) ∧ IsNaN 0x7FF0000000000001 :=
  ⟨rfl, rfl, rfl, rfl, rfl, ready_uniform, ⟨_, by simp [fpRat, fpDecode]; rfl, by norm_num⟩, by unfold IsNaN; decide⟩

theorem witness_DivideByMemory :
    ((fields 0 3 .l1 2 0).loc = .l1 ∨ (fields 0 3 .l1 2 0).loc = .l2) ∧
    (fields 0 3 .l1 2 0).dst.val = (0 : Fin 4).val ∧ ready.decoded = true ∧ ready.seeded = true ∧
    UniformMode ready ∧ (fields 0 3 .l1 2 0).immIdx.val < ready.imm.length ∧
    ready.imm.length ≤ (fields 0 3 .l1 3 0).immIdx.val ∧
    isExponentMask (ready.eMask .lo) = true ∧ isExponentMask (ready.eMask .hi) = true :=
  ⟨.inl rfl, rfl, rfl, rfl, ready_uniform, by decide, by decide, by decide, by decide⟩

theorem witness_ArithmeticRoundsCorrectly_finite :
    ∃ a b : ℚ, fpRat 0x3FF0000000000000 = some a ∧ fpRat 0x4008000000000000 = some b ∧ b ≠ 0 ∧ a ≠ 0 :=
  ⟨_, _, by simp [fpRat, fpDecode]; rfl, by simp [fpRat, fpDecode]; rfl, by norm_num, by norm_num⟩

theorem witness_ArithmeticRoundsCorrectly_zero :
    fpRat 0 = some 0 ∧ fpRat 0x8000000000000000 = some 0 ∧ signOf 0x8000000000000000 = true ∧ (0 : ℚ) + 0 = 0 ∧
    (0 : ℚ) - 0 = 0 := by simp [fpRat, fpDecode, signOf]

theorem witness_ArithmeticRoundsCorrectly_nan :
    IsNaN 0xFFFFFFFFFFFFFFFF ∧ ¬IsNaN (fmul .nearestEven (infPattern true) 0x3FF0000000000000) ∧
    ¬IsNaN (fdiv .up 1 (infPattern false)) := by unfold IsNaN; decide +kernel

theorem witness_RootRoundsCorrectly :
    (∃ a : ℚ, fpRat 0x4000000000000000 = some a ∧ 0 ≤ a) ∧ fpRat 0x8000000000000000 = some 0 :=
  ⟨⟨_, by simp [fpRat, fpDecode]; rfl, by norm_num⟩, by simp [fpRat, fpDecode]⟩

theorem witness_ConversionAndMasking :
    isExponentMask 0x3000000000000000 = true ∧ isExponentMask 0x3F000000003FFFFF = true := by decide

/-- Two entries, the second with the greatest bit position and the last word of the program as target. -/
def branchReady : State := branchState 0 0x100 0x00170000

theorem witness_BranchResult :
    (regs 3 0).loc = .file ∧ branchReady.decoded = true ∧ (regs 3 0).immIdx.val + 1 < branchReady.imm.length ∧
    bitField (branchReady.immEntry 1).toNat 21 11 = 0 ∧ 8 ≤ bitField (branchReady.immEntry 1).toNat 16 5 ∧
    bitField (branchReady.immEntry 1).toNat 16 5 ≤ 23 ∧
    bitField (branchReady.immEntry 1).toNat 0 16 < branchReady.progLen := by decide

theorem witness_BranchChecks_unwritten :
    (fields 3 0 .file 2 0).loc = .file ∧ branchReady.decoded = true ∧ branchReady.imm.length ≤ (fields 3 0 .file 2 0).immIdx.val ∧
    branchReady.imm.length = (fields 3 0 .file 1 0).immIdx.val + 1 := by decide

theorem witness_BranchChecks_entry :
    (branchState 0 0x100 0x00070000).decoded = true ∧
    bitField ((branchState 0 0x100 0x00070000).immEntry 1).toNat 16 5 = 7 ∧
    bitField ((branchState 0 0x100 0x00180000).immEntry 1).toNat 16 5 = 24 := by decide

theorem witness_BranchChecks_target :
    bitField ((branchState 0 0x100 0x00080001).immEntry 1).toNat 21 11 = 0 ∧
    bitField ((branchState 0 0x100 0x00080001).immEntry 1).toNat 16 5 = 8 ∧
    (branchState 0 0x100 0x00080001).progLen ≤ bitField ((branchState 0 0x100 0x00080001).immEntry 1).toNat 0 16 := by
  decide

theorem witness_RoundingRequest :
    (fields 0 1 .file 2 0).loc = .file ∧ ready.decoded = true ∧ (fields 0 1 .file 2 0).immIdx.val < ready.imm.length ∧
    ready.imm.length ≤ (fields 0 1 .file 3 0).immIdx.val ∧
    roundingVote [(⟨0, 0, false, 0, true, 0⟩ : Lane)] = some ready.fprc := by decide

theorem witness_StoreWord :
    (fields 2 3 .l3 2 0).loc ≠ .file ∧ ready.decoded = true ∧ (fields 2 3 .l3 2 0).immIdx.val < ready.imm.length ∧
    ready.scratch.wf = true ∧ ready.imm.length ≤ (fields 2 3 .l1 3 0).immIdx.val ∧ (fields 2 3 .file 0 0).loc = .file ∧
    Instr.iaddM (regs 0 0) ∈ integerLoads (regs 0 0) ∧
    (⟨.istore, 2, 2, 0, 0, 14, 0⟩ : RawInstr).cls = .istore := by decide

theorem witness_UnwrittenReadsFault :
    (Instr.inegR (regs 0 0)).legal = true ∧ (Instr.inegR (regs 0 0)).opcode ≠ 29 ∧
    (Instr.inegR (regs 0 0)).isFloat = false ∧ State.reset.decoded = false ∧
    (Instr.fsqrtR (regs 0 0)).legal = true ∧ (Instr.fsqrtR (regs 0 0)).opcode ≠ 29 ∧
    (Instr.fsqrtR (regs 0 0)).isFloat = true ∧ State.reset.seeded = false := by decide

theorem witness_IllegalWordsFault_first :
    Dispatching (running [0x80000000]) ∧ IllegalBits 0x80000000 ∧ Dispatching (running [0x00740000]) ∧
    IllegalCounts 4 0x00740000 :=
  ⟨⟨by decide, rfl, rfl, rfl, by decide⟩, by unfold IllegalBits; decide, ⟨by decide, rfl, rfl, rfl, by decide⟩,
    by unfold IllegalCounts; decide⟩

theorem witness_IllegalWordsFault_second :
    Dispatching (running [0x01740000, 0x00F80000]) ∧ ¬IllegalBits 0x01740000 ∧ ¬IllegalCounts 4 0x01740000 ∧
    (running [0x01740000, 0x00F80000]).pc + bitField (0x01740000 : Word32).toNat 23 4
      ≤ (running [0x01740000, 0x00F80000]).progLen ∧
    (running [0x01740000, 0x00F80000]).prog[1]? = some 0x00F80000 ∧ IllegalBits 0x00F80000 :=
  ⟨⟨by decide, rfl, rfl, rfl, by decide⟩, by unfold IllegalBits; decide, by unfold IllegalCounts; decide, by decide, rfl,
    by unfold IllegalBits; decide⟩

theorem witness_IllegalWordsFault_range :
    Dispatching (running [0x01740000]) ∧ ¬IllegalBits 0x01740000 ∧ ¬IllegalCounts 4 0x01740000 ∧
    (running [0x01740000]).progLen < (running [0x01740000]).pc + bitField (0x01740000 : Word32).toNat 23 4 :=
  ⟨⟨by decide, rfl, rfl, rfl, by decide⟩, by unfold IllegalBits; decide, by unfold IllegalCounts; decide, by decide⟩

theorem witness_FaultIsSticky :
    ready.fault = none ∧ { ready with fault := some (.pcRange 0 0) }.fault = some (.pcRange 0 0) ∧
    { ready with fault := some (.pcRange 0 0) }.params.ok = true := ⟨rfl, rfl, by decide⟩

theorem ready_laneInv : LaneInv ready := ⟨rfl, fun _ => by decide, rfl⟩

theorem witness_FaultingStepChangesOnlyFault :
    LaneInv unwrittenState ∧ ∃ t, step unwrittenState = .next t ∧ t.fault ≠ none :=
  ⟨⟨rfl, fun _ => by decide, rfl⟩, ⟨_, rfl, by decide⟩⟩

/-- Two words that write r1. -/
def conflictState : State := running [0x0130000A, 0x0130000A]

/-- The word of `conflictState`, IXOR_R r2, r1 in a group of two. -/
def conflictInstr : Instr := .ixorR ⟨2, 1, .file, 0, 0, 2, 0⟩

/-- What the word of `conflictState` does by itself, as word `j`. -/
def conflictOwn (j : Nat) : State :=
  (conflictState.withIssue (issueOf 4 0 0 j)).setReg 2
    ((conflictState.withIssue (issueOf 4 0 0 j)).reg 2 ^^^ (conflictState.withIssue (issueOf 4 0 0 j)).operand2
      conflictInstr.fields)

theorem witness_ConflictingGroupFaults :
    Dispatching conflictState ∧ conflictInstr.wellFormedHead 4 = true ∧
    conflictState.pc + conflictInstr.fields.n.val ≤ conflictState.progLen ∧
    (∀ j, j < 2 → ∃ word, conflictState.prog[conflictState.pc + j]? = some word ∧
      decodeWord word = .ok conflictInstr ∧ conflictInstr.wellFormed = true ∧
      exec conflictInstr (conflictState.withIssue (issueOf 4 0 0 j)) = .next (conflictOwn j) ∧
      (conflictOwn j).fault = none) ∧
    conflicts conflictInstr conflictInstr = true := by
  refine ⟨⟨by decide, rfl, rfl, rfl, by decide⟩, by decide, by decide, fun j hj => ?_, by decide⟩
  rcases j with _ | _ | j
  · exact ⟨_, rfl, by decide, by decide, rfl, rfl⟩
  · exact ⟨_, rfl, by decide, by decide, rfl, rfl⟩
  · omega

/-- The words of `mixedState`: FSCAL_R f2 on lanes 0 and 1, INEG_R r1 on lane 2, ISTORE on lane 3. -/
def mixedInstr : Nat → Instr
  | 0 => .fscalR ⟨2, 0, .file, 0, 0, 3, 1⟩
  | 1 => .inegR ⟨1, 0, .file, 0, 0, 3, 1⟩
  | _ => .istore ⟨3, 4, .l1, 2, 0, 3, 1⟩

/-- A group of three words that do not conflict, each with something to write. -/
def mixedState : State := { ready.setReg 4 7 with prog := [0x09D80002, 0x09AC0001, 0x09F00263] }

/-- What the words of `mixedState` do by themselves. -/
def mixedOwn (j : Nat) : State :=
  let s := mixedState.withIssue (issueOf 4 0 1 j)
  match j with
  | 0 => s.setFReg 2 ⟨0x80F0000000000000, 0x80F0000000000000⟩
  | 1 => s.setReg 1 0
  | _ => s.spWrite 0x40 7

theorem witness_GroupAppliesEveryWord :
    Dispatching mixedState ∧ (mixedInstr 0).wellFormedHead 4 = true ∧ mixedState.pc + 3 ≤ mixedState.progLen ∧
    (∀ j, j < 3 → ∃ word, mixedState.prog[mixedState.pc + j]? = some word ∧ decodeWord word = .ok (mixedInstr j) ∧
      (mixedInstr j).wellFormed = true ∧
      exec (mixedInstr j) (mixedState.withIssue (issueOf 4 0 1 j)) = .next (mixedOwn j) ∧
      (mixedOwn j).fault = none) ∧
    (∀ i j, i < j → j < 3 → conflicts (mixedInstr i) (mixedInstr j) = false) := by
  refine ⟨⟨by decide, rfl, rfl, rfl, by decide⟩, by decide, by decide, fun j hj => ?_, fun i j hij hj => ?_⟩
  · interval_cases j
    · exact ⟨_, rfl, by decide, by decide, rfl, rfl⟩
    · exact ⟨_, rfl, by decide, by decide, rfl, rfl⟩
    · exact ⟨_, rfl, by decide, by decide, rfl, rfl⟩
  · interval_cases j <;> interval_cases i <;> decide

/-- Two words on lanes 0 and 1 that do not conflict, with their results. -/
def quietResults : List (Slot × State) :=
  [(⟨⟨0, 0, false⟩, .inegR (regs 1 0)⟩, ready.setReg 1 0), (⟨⟨1, 1, false⟩, .inegR (regs 2 0)⟩, ready.setReg 2 0)]

theorem witness_EffectOrderIrrelevant :
    quietResults.Perm quietResults.reverse ∧
    quietResults.Pairwise (fun a b => conflicts a.1.instr b.1.instr = false) ∧
    quietResults.Pairwise (fun a b => ∀ i ∈ a.1.issue.lanes, i ∉ b.1.issue.lanes) :=
  ⟨(List.reverse_perm _).symm, by simp [quietResults]; decide, by simp [quietResults, Issue.lanes]⟩

/-- INEG_R r1 on lane 2 and CBRANCH r2, whose entry 1 is a legal second one, on lane 3: they do not conflict. -/
theorem witness_EffectOrderIrrelevant_execution :
    conflicts (.inegR (regs 1 0)) (.cbranch (regs 2 0)) = false ∧
    (∀ k ∈ (⟨0, 2, false⟩ : Issue).lanes, k ∉ (⟨1, 3, false⟩ : Issue).lanes) ∧
    (∃ a, exec (.inegR (regs 1 0)) (ready.withIssue ⟨0, 2, false⟩) = .next a ∧ a.fault = none) ∧
    (∃ b, exec (.cbranch (regs 2 0)) (ready.withIssue ⟨1, 3, false⟩) = .next b ∧ b.fault = none) :=
  ⟨by decide, by decide, ⟨_, rfl, rfl⟩, ⟨_, rfl, rfl⟩⟩

/-- A legal word of each kind of resource that R208's table names. -/
theorem witness_EffectOrderIrrelevant_table :
    (Instr.fswapR (regs 7 0)).legal = true ∧ (Instr.fdivM (fields 3 7 .l2 0 0)).legal = true ∧
    (Instr.iswapR (regs 4 4)).legal = true ∧ (Instr.ixorM (fields 6 6 .l3 0 0)).legal = true ∧
    (Instr.cfround (regs 0 7)).legal = true ∧ (Instr.istore (fields 7 0 .l3 0 0)).legal = true := by decide

/-- `ready` with a jump request of lane 1 to the program's end, and rounding requests of lanes 1 and 2. -/
def requestState : State :=
  { ready with lanes := [⟨0, 0, false, 0, false, 0⟩, ⟨0, 0, true, 1, true, 2⟩, ⟨0, 0, true, 0, true, 3⟩] }

theorem witness_ResyncTakesLowestLane :
    (requestState.lanes[1]? = some ⟨0, 0, true, 1, true, 2⟩ ∧
      ∀ (j : Nat) (m : Lane), j < 1 → requestState.lanes[j]? = some m → m.jreq = false ∧ m.rreq = false) ∧
    (1 ≤ requestState.progLen) ∧ (∀ l ∈ ready.lanes, l.jreq = false ∧ l.rreq = false) ∧
    ready.progLen < ready.pc + 2 := by
  refine ⟨⟨rfl, fun j m hj hm => ?_⟩, by decide, by decide, by decide⟩
  have : j = 0 := by omega
  subst this
  simp [requestState] at hm
  subst hm
  exact ⟨rfl, rfl⟩

theorem witness_DispatchKeepsControlState : ∃ t, ready.dispatchStep = .next t := ⟨_, rfl⟩

theorem witness_SeedingResult :
    seedState.params.ok = true ∧ seedState.fault = none ∧ seedState.agent = .interpret ∧ seedState.phase = .seed ∧
    seedState.decoded = true := ⟨by decide, rfl, rfl, rfl, rfl⟩

theorem writebackState_memoryInv : MemoryInv writebackState := ⟨by decide, by decide, by decide⟩

theorem writebackState_addressInv : AddressInv writebackState :=
  ⟨by decide, by decide, by decide, by decide, by decide⟩

theorem witness_WritebackResult :
    writebackState.params.ok = true ∧ writebackState.fault = none ∧ writebackState.agent = .interpret ∧
    writebackState.phase = .writeback ∧ writebackState.decoded = true ∧ writebackState.seeded = true ∧
    MemoryInv writebackState ∧ AddressInv writebackState ∧ writebackState.spAddr0.toNat % 64 = 0 ∧
    writebackState.spAddr1.toNat % 64 = 0 ∧ writebackState.last = true ∧
    writebackState.numIter ≤ writebackState.round + 1 :=
  ⟨by decide, rfl, rfl, rfl, rfl, rfl, writebackState_memoryInv, writebackState_addressInv, by decide, by decide, rfl,
    by decide⟩

/-- The host's turn, with one batch queued. -/
def launchState (k : Nat) : State :=
  { State.reset with decoded := true, prog := [0x00F40000], hostQueue := [.interpret k true true] }

theorem witness_BatchStartResult :
    (launchState 1).params.ok = true ∧ (launchState 1).fault = none ∧ (launchState 1).agent = .host ∧
    (launchState 1).decoded = true ∧ (launchState 1).prog ≠ [] ∧ State.reset.decoded = false ∧
    (launchState 0).hostQueue = [.interpret 0 true true] := by decide

/-- The host's turn, with one interaction queued. -/
def hostState (cmd : HostCmd) : State := { State.reset with hostQueue := [cmd] }

theorem witness_BatchStartResult_interactions :
    State.reset.params.ok = true ∧ State.reset.fault = none ∧ State.reset.agent = .host ∧
    (hostState (.startHash [(2097151, 1)])).hostQueue = [.startHash [(2097151, 1)]] ∧
    Memory.fits 2097152 [(2097151, 1)] = true ∧ Memory.fits 2097152 [(2097152, 1)] = false ∧
    Memory.fits 2176 [(2175, 255)] = true ∧ Memory.fits 2176 [(2176, 255)] = false := by decide

theorem witness_PhaseTransitions_seed :
    seedState.phase ≠ .done ∧ ∃ t, step seedState = .next t ∧ t.fault = none := ⟨by decide, ⟨_, rfl, rfl⟩⟩

theorem witness_PhaseTransitions_dispatch : ∃ t, step ready = .next t ∧ t.fault = none := ⟨_, rfl, rfl⟩

theorem witness_PhaseTransitions_writeback :
    writebackState.phase ≠ .done ∧ ∃ t, step writebackState = .next t := ⟨by decide, exists_next_of_goesOn (by decide +kernel)⟩

theorem witness_PhaseTransitions_waiting :
    State.reset.params.ok = true ∧ State.reset.fault = none ∧ State.reset.agent = .host ∧ State.reset.hostQueue = [] := by
  decide

theorem ready_batchInv : BatchInv ready :=
  ⟨fun _ => rfl, fun _ => by decide, fun _ => by decide, fun _ => by decide, fun _ => rfl, fun _ => by decide,
    fun _ => by decide⟩

/-- `ready` after its one group, its write-back, and the end of its batch. -/
theorem ready_run :
    ∃ u v, step ready = .next u ∧ u.phase = .writeback ∧ u.pc = u.progLen ∧ step u = .next v ∧ v.phase = .done ∧
      step v = .fault .awaitingHost := ⟨_, _, rfl, rfl, rfl, rfl, rfl, rfl⟩

theorem ready_roundsTerminate : ready.RoundsTerminate := by
  obtain ⟨u, v, hu, hup, hpc, hv, hvp, hw⟩ := ready_run
  intro k t ht _ hd
  have h1 : ready.groupsN 1 = some u := by simp [State.groupsN, hu]; decide
  rcases k with _ | _ | _ | k
  · obtain rfl : ready = t := by simpa using ht
    exact ⟨1, u, h1, .inr hpc⟩
  · obtain rfl : u = t := by simpa [State.stepN, hu] using ht
    simp [hup] at hd
  · obtain rfl : v = t := by simpa [State.stepN, hu, hv] using ht
    simp [hvp] at hd
  · simp [State.stepN, hu, hv, hw] at ht

/-- The state of `writebackState` after its batch, in the host's hands. -/
def overState : State := { writebackState with phase := .done, agent := .host, output := some [] }

theorem witness_PhaseTransitions_run :
    ready.params.ok = true ∧ ready.fault = none ∧ ready.agent = .interpret ∧ BatchInv ready ∧ ready.RoundsTerminate ∧
    writebackState.runOver = false ∧ after (step writebackState) (·.runOver) = some true ∧ overState.runOver = true ∧
    overState.agent = .host ∧
    after (step { overState with hostQueue := [.initScratchpad []] }) (·.runOver) = some true ∧
    after (step { overState with hostQueue := [.compile []] }) (·.runOver) = some false :=
  ⟨by decide, rfl, rfl, ready_batchInv, ready_roundsTerminate, by decide, by decide +kernel, by decide, rfl,
    by decide +kernel, by decide +kernel⟩

theorem witness_DatasetRange_never :
    AddressInv writebackState ∧ ∃ t, step writebackState = .next t :=
  ⟨writebackState_addressInv, exists_next_of_goesOn (by decide +kernel)⟩

/-- A write-back whose last word, at 2^31 + 56, passes a dataset without extra items. -/
def pastState : State :=
  { writebackState with ma := 0x7FFFFFC0, datasetOffset := 8, params := { Config.defaultParams with datasetExtraItems := 0 } }

theorem witness_DatasetRange_past :
    pastState.params.ok = true ∧ pastState.fault = none ∧ pastState.agent = .interpret ∧ pastState.phase = .writeback ∧
    2147483648 + 64 * pastState.params.datasetExtraItems
      < pastState.datasetOffset.toNat + pastState.ma.toNat + 8 * 7 + 8 ∧
    pastState.datasetOffset.toNat + pastState.ma.toNat + 8 * 6 + 8
      ≤ 2147483648 + 64 * pastState.params.datasetExtraItems := by decide

theorem witness_BadConfigurationRefused :
    { Config.defaultParams with w := 3 }.w ∉ [1, 2, 4, 8] ∧
    { Config.defaultParams with freq := [255] }.freq.sum ≠ 256 ∧ { Config.defaultParams with latFp := 0 }.latFp < 1 := by
  decide

theorem witness_DecodeIsExact : decodeWord 0x00F40000 = .ok (.nop ⟨0, 0, .file, 0, 0, 1, 0⟩) := by decide

theorem witness_RawDecodingIsUnique : Config.defaultFreq.length = 29 ∧ Config.defaultFreq.sum = 256 := by decide

theorem ready_steps : ∃ t, step ready = .next t := ⟨_, rfl⟩

theorem witness_StepKeepsMemoryInv : BatchInv ready ∧ MemoryInv ready ∧ ∃ t, step ready = .next t :=
  ⟨ready_batchInv, ⟨by decide, by decide, by decide⟩, ready_steps⟩

theorem witness_StepKeepsAddressInv : AddressInv ready ∧ ∃ t, step ready = .next t :=
  ⟨⟨by decide, by decide, by decide, by decide, by decide⟩, ready_steps⟩

theorem witness_StepKeepsLaneInv : LaneInv ready ∧ ∃ t, step ready = .next t := ⟨ready_laneInv, ready_steps⟩

theorem witness_StepKeepsBatchInv : BatchInv ready ∧ ∃ t, step ready = .next t := ⟨ready_batchInv, ready_steps⟩

theorem witness_StepKeepsGroupEInv : GroupEInv ready ∧ ∃ t, step ready = .next t :=
  ⟨⟨fun h => by cases h <;> decide, fun k h => by fin_cases k <;> cases h <;> decide,
    fun k h => by fin_cases k <;> cases h <;> decide⟩, ready_steps⟩

theorem witness_StepKeepsCapacityInv : CapacityInv ready ∧ ∃ t, step ready = .next t :=
  ⟨⟨by decide, by decide⟩, ready_steps⟩

theorem witness_MemoryWords :
    ready.scratch.wf = true ∧ Memory.wf [(0x10, 1), (0x1FFFFF, 2)] = true ∧ (0x08 + 8 ≤ 0x10) := by decide

theorem witness_VmStateLayout :
    (7 < 8) ∧ ready.imm[2]? = some 0x40 ∧ ready.prog[0]? = some 0x00F40000 ∧ ready.progLen ≤ 256 := by decide

/-- The compile engine about to decode. -/
def decodeState : State := { State.reset with agent := .compile .decode }

theorem witness_DecoderConstants :
    decodeState.params.ok = true ∧ decodeState.fault = none ∧ decodeState.agent = .compile .decode := by decide

theorem witness_ConditionRegisterSelection :
    (rawBranch 0 0).cls = .cbranch ∧ Config.defaultParams.cregRule = .select ∧
    { Config.defaultParams with cregRule := .dstField }.cregRule = .dstField := by decide

theorem witness_BranchRangeKeepsItsRegister :
    ∃ b, b ∈ (passOneAfter Config.defaultParams [rawBranch 0 0] 1).branches := ⟨⟨0, 0, 0⟩, by decide⟩

theorem witness_ReciprocalIsFloor :
    2 ^ (2 - 1) < (3 : Word32).toNat ∧ (3 : Word32).toNat < 2 ^ 2 ∧ 3 ≤ (3 : Word32).toNat ∧
    2 ^ (32 - 1) < (0xFFFFFFFF : Word32).toNat ∧ (0xFFFFFFFF : Word32).toNat < 2 ^ 32 := by decide

theorem witness_BranchImmediate : (23 < 32) ∧ (65535 < 65536) := by decide

theorem witness_LoweredWordsAreLegal :
    (lower ⟨.iswapR, 3, 3, 0, 0, 0, 0⟩ 0).opcode = 29 ∧ (lower ⟨.iswapR, 3, 4, 0, 0, 0, 0⟩ 0).opcode = 16 ∧
    (lower ⟨.imulRcp, 3, 3, 0, 0, 0, 0x80000000⟩ 0).opcode = 29 ∧ (lower ⟨.imulRcp, 3, 3, 0, 0, 0, 3⟩ 0).opcode = 10 := by
  decide

/-- A program with nothing placed. -/
theorem initial_schedule : ScheduleInv 4 [] Compiler.initial where
  tracker := ⟨rfl, fun i a p x h => by simp at h, fun i a p x h => by simp at h, fun i j a b p q _ h => by simp at h⟩
  lanes := ⟨fun cyc => rfl, fun cyc => by simp [usedAt, Compiler.initial]⟩
  cuts :=
    ⟨fun p h => by simp [Compiler.initial] at h, fun i w p h => by simp at h, fun i p _ h => by simp [Compiler.initial] at h,
      fun i j w p q _ h => by simp at h, fun i j w p q _ h => by simp at h,
      fun i j p q _ _ h => by simp [Compiler.initial] at h, fun i j p q _ _ h => by simp [Compiler.initial] at h⟩

theorem witness_ScheduleStaysLegal :
    Config.defaultParams.ok = true ∧ ScheduleInv Config.defaultParams.w [] Compiler.initial ∧
    ∃ r, Compiler.initial.pass2 Config.defaultParams [] 0 (rawBranch 0 0) = .ok r :=
  ⟨by decide, initial_schedule, ⟨_, rfl⟩⟩

theorem witness_ImmediatesAndPlacement :
    Config.defaultParams.ok = true ∧ ScheduleInv Config.defaultParams.w [] Compiler.initial ∧ ([] : List Instr).length < 257 ∧
    (List.replicate 190 (0 : Word32)).length + (immEntries (rawBranch 0 0)).length ≤ 192 ∧
    192 < (List.replicate 191 (0 : Word32)).length + (immEntries (rawBranch 0 0)).length :=
  ⟨by decide, initial_schedule, by decide, by rw [List.length_replicate]; decide, by rw [List.length_replicate]; decide⟩

/-- Entropy whose raw instruction 0 is a CBRANCH (class 26 is bytes D6 to EE under the default table). -/
def branchEntropy : Memory := [(128, 0xD6)]

/-- That instruction: condition field 0, immediate 0. -/
def firstBranch : RawInstr := ⟨.cbranch, 0, 0, 0, 0, 0, 0⟩

/-- The compile engine with that one instruction resolved and placed. -/
def oneBranch : Compiler :=
  ((Compiler.initial.pass1 Config.defaultParams 0 firstBranch).pass2 Config.defaultParams [] 0 firstBranch).toOption.elim
    Compiler.initial (·.1)

/-- About to emit the program of that one instruction. -/
def emitState : State :=
  { State.reset with
    entropy := branchEntropy, compiler := oneBranch, imm := [0x100, 0x00080000], agent := .compile .emit }

theorem singleton_get {α : Type} {x y : α} {k : Nat} (h : [x][k]? = some y) : k = 0 ∧ x = y := by
  cases k with
  | zero => exact ⟨rfl, by simpa using h⟩
  | succ k => simp at h

theorem oneBranch_placed : oneBranch.placed = [⟨0, 0⟩] := by decide
theorem oneBranch_branches : oneBranch.branches = [⟨0, 0, 0⟩] := by decide
theorem oneBranch_used : oneBranch.used = [(0, 1)] := by decide
theorem oneBranch_program : loweredProgram oneBranch [firstBranch] = [.cbranch (regs 0 0)] := by decide

theorem oneBranch_schedule : ScheduleInv 4 [.cbranch (regs 0 0)] oneBranch := by
  have two : ∀ {i j : Nat} {p q : Placed}, i < j → [(⟨0, 0⟩ : Placed)][i]? = some p → [(⟨0, 0⟩ : Placed)][j]? = some q →
      False := fun hij hp hq => by have := singleton_get hp; have := singleton_get hq; omega
  refine ⟨⟨by rw [oneBranch_placed]; rfl, fun i a p x ha hp hx => ?_, fun i a p x ha hp hx => ?_,
      fun i j a b p q hij _ _ hp hq => ?_⟩,
    ⟨fun cyc => ?_, fun cyc => ?_⟩,
    ⟨fun p hp => ?_, fun i w p _ hp => ?_, fun i p _ hp => ?_, fun i j w p q hij _ hp hq => ?_,
      fun i j w p q hij _ hp hq => ?_, fun i j p q hij _ hp hq => ?_, fun i j p q hij _ hp hq => ?_⟩⟩
  all_goals (try rw [oneBranch_placed] at hp)
  all_goals (try rw [oneBranch_placed] at hq)
  · obtain ⟨-, rfl⟩ := singleton_get ha
    obtain ⟨-, rfl⟩ := singleton_get hp
    revert x; decide
  · obtain ⟨-, rfl⟩ := singleton_get ha
    obtain ⟨-, rfl⟩ := singleton_get hp
    revert x; decide
  · exact (two hij hp hq).elim
  · rw [oneBranch_used, lanesPlaced, oneBranch_placed]
    by_cases h : cyc = 0
    · subst h; decide
    · have h' : ¬0 = cyc := fun e => h e.symm
      simp [usedAt, h']
  · rw [oneBranch_used]
    by_cases h : cyc = 0
    · subst h; decide
    · have h' : ¬0 = cyc := fun e => h e.symm
      simp [usedAt, h']
  · obtain rfl : p = ⟨0, 0⟩ := by simpa using hp
    decide
  · obtain ⟨-, rfl⟩ := singleton_get hp
    decide
  · obtain ⟨-, rfl⟩ := singleton_get hp
    decide
  all_goals exact (two hij hp hq).elim

theorem oneBranch_compiled : CompiledSoFar emitState [firstBranch] where
  program := fun k raw h => by obtain ⟨rfl, rfl⟩ := singleton_get h; decide +kernel
  schedule := by show ScheduleInv 4 (loweredProgram oneBranch [firstBranch]) oneBranch
                 rw [oneBranch_program]; exact oneBranch_schedule
  entries := by decide +kernel
  capacity := by decide
  indices := fun k raw q h hq => by
    obtain ⟨rfl, rfl⟩ := singleton_get h
    have hq' : oneBranch.placed[0]? = some q := hq
    rw [oneBranch_placed] at hq'
    obtain ⟨-, rfl⟩ := singleton_get hq'
    decide
  targets := by decide
  branches := fun b _ raw h => by obtain ⟨-, rfl⟩ := singleton_get h; rfl
  resolved := fun k raw h _ => by obtain ⟨rfl, -⟩ := singleton_get h; exact ⟨⟨0, 0, 0⟩, by decide, rfl⟩
  once := by decide

theorem witness_ImmediatesAndPlacement_entries :
    immEntries ⟨.iaddRs, 5, 0, 0, 0, 0, 7⟩ = [7] ∧ immEntries ⟨.iaddRs, 4, 0, 0, 0, 0, 7⟩ = [] ∧
    immEntries ⟨.irolR, 3, 3, 0, 0, 0, 7⟩ = [7] ∧ immEntries ⟨.irolR, 3, 4, 0, 0, 0, 7⟩ = [] ∧
    immEntries ⟨.imulRcp, 3, 3, 0, 0, 0, 8⟩ = [] ∧
    immEntries ⟨.imulRcp, 3, 3, 0, 0, 0, 3⟩ = [0xAAAAAAAA, 0xAAAAAAAA] ∧
    immEntries firstBranch = [0x100, 0x00080000] ∧ immEntries ⟨.fsqrtR, 3, 3, 0, 0, 0, 7⟩ = [] := by decide +kernel

theorem witness_EmissionOrder_emit :
    emitState.params.ok = true ∧ emitState.fault = none ∧ emitState.agent = .compile .emit ∧
    CompiledSoFar emitState [firstBranch] ∧ [firstBranch].length ≤ 256 ∧
    (⟨0, 0, 0⟩ : Branch) ∈ emitState.compiler.branches ∧
    after (step emitState) (fun t => (t.prog, t.imm)) = some ([0x00E80000], [0x100, 0x00080000]) :=
  ⟨by decide, rfl, rfl, oneBranch_compiled, by decide, by decide, by decide +kernel⟩

/-- The compile engine about to examine raw instruction 0. -/
def passOneState : State := { State.reset with agent := .compile (.pass1 0) }

theorem witness_EmissionOrder_step : CompileInv passOneState ∧ ∃ t, step passOneState = .next t :=
  ⟨⟨fun i h => by cases h; exact ⟨by decide, rfl, rfl⟩, fun k h => (by cases h), fun h => (by cases h)⟩,
    exists_next_of_goesOn (by decide +kernel)⟩

theorem witness_EmissionOrder_sort :
    (([⟨1, .nop (regs 0 0), 0⟩, ⟨0, .faddR (regs 0 0), 0⟩] : List Emitted).map (·.idx)).Nodup := by decide

/-! ### The host's duties (R426, R453) and the end of a run (R458, R460) -/

/-- The default parameters with programs of two rounds. -/
def twoRounds : Config.Params := { Config.defaultParams with programIterations := 2 }

theorem test_duties_of_a_hash_of_two_programs :
    hostComplete twoRounds .noHash
      [.startHash [], .compile [], .initScratchpad [], .interpret 1 true false, .interpret 1 false true,
        .initScratchpad [], .compile [], .interpret 2 true true] = true := by decide

theorem test_compile_before_the_last_batch_breaks_a_duty :
    hostDutiful twoRounds .noHash [.startHash [], .compile [], .interpret 1 true false, .compile []] = false := by decide

theorem test_hash_before_the_last_batch_breaks_a_duty :
    hostDutiful twoRounds .noHash [.startHash [], .compile [], .interpret 1 true false, .startHash []] = false := by decide

theorem test_program_short_of_its_rounds_is_not_complete :
    hostComplete twoRounds .noHash [.startHash [], .compile [], .interpret 1 true false] = false := by decide

theorem test_fuel_that_runs_out_is_not_finished :
    (match ready.runFor 1 with | .notFinished t => t.phase == .writeback | _ => false) = true := by decide +kernel

theorem test_run_is_over_at_done :
    (match State.runFor 2 { ready with last := true } with | .over t => t.phase == .done | _ => false) = true := by
  decide +kernel

end Sys2Proof.Tests
end

section
/-! SUPPORT. The configurations the model accepts, and O39: what it does with one it does not accept (R9). -/

namespace Sys2Proof.Config

/-- The ranges of an accepted configuration (R9; log 21), with the number of lanes as a member of the list R9 names. -/
theorem Params.ok_iff (p : Params) :
    p.ok = true ↔ p.w ∈ [1, 2, 4, 8] ∧ p.freq.length = 29 ∧ p.freq.sum = 256 ∧ 1 ≤ p.latInt ∧ 1 ≤ p.latFp ∧
      1 ≤ p.latMem ∧ 1 ≤ p.latMemHigh ∧ 1 ≤ p.programIterations ∧ 0 < p.warpSize ∧ p.warpSize % p.w = 0 := by
  simp [Params.ok]

end Sys2Proof.Config

namespace Sys2Proof.Machine

/-- The check of the parameters comes before the fault record and before any agent (R9). -/
theorem step_of_params_not_ok {s : State} (h : s.params.ok ≠ true) : step s = .refused .badConfiguration := if_neg h

/-- Settles O39: each of the named parameters out of range contradicts one range of `Params.ok_iff`. -/
theorem badConfigurationRefused : Obligations.BadConfigurationRefused := by
  intro s hbad
  refine step_of_params_not_ok fun hok => ?_
  obtain ⟨hw, -, hsum, hInt, hFp, hMem, hMemHigh, -⟩ := s.params.ok_iff.mp hok
  obtain h | h | h | h | h | h := hbad
  · exact h hw
  · exact h hsum
  · exact absurd hInt (Nat.not_le.mpr h)
  · exact absurd hFp (Nat.not_le.mpr h)
  · exact absurd hMem (Nat.not_le.mpr h)
  · exact absurd hMemHigh (Nat.not_le.mpr h)

end Sys2Proof.Machine
end

section
/-! SUPPORT. One step as one flat case distinction: the step's effect is the raising of a fault, one interaction of
the host, one step of the compile engine, a seeding, a dispatch group, the end of dispatching or a write-back. Each
invariant is then proved once per effect. Beside it, what a group and a round step leave as they were. -/

namespace Sys2Proof.Machine

/-! ### What a group leaves as it was (R258, R421) -/

theorem InstructionFrame.trans {s t u : State} (hst : InstructionFrame s t) (htu : InstructionFrame t u) :
    InstructionFrame s u := by
  unfold InstructionFrame at *
  rw [htu, hst]

/-- A list of changes that each keep the frame keeps it. -/
theorem InstructionFrame.foldl {α : Type} {op : State → α → State} (hop : ∀ s x, InstructionFrame s (op s x))
    (l : List α) (s : State) : InstructionFrame s (l.foldl op s) := by
  induction l generalizing s with
  | nil => rfl
  | cons x l ih => exact (hop s x).trans (ih _)

theorem State.takeResource_frame (own s : State) (x : Resource) : InstructionFrame s (own.takeResource s x) := by
  cases x <;> rfl

theorem State.takeLane_frame (own s : State) (i : Nat) : InstructionFrame s (own.takeLane s i) := by
  unfold State.takeLane
  split <;> rfl

theorem State.applyResult_frame (s : State) (result : Slot × State) : InstructionFrame s (s.applyResult result) :=
  (InstructionFrame.foldl (State.takeResource_frame result.2) _ s).trans
    (InstructionFrame.foldl (State.takeLane_frame result.2) _ _)

/-- What a dispatch group can change: what its words can, and by the resynchronisation `pc`, the mode and the phase
(R259–R261). -/
abbrev DispatchFrame (s t : State) : Prop :=
  t = { s with
    r := t.r, f := t.f, e := t.e, scratch := t.scratch, lanes := t.lanes, fault := t.fault
    pc := t.pc, fprc := t.fprc, phase := t.phase }

theorem InstructionFrame.resync {s u : State} (h : InstructionFrame s u) (n : Nat) :
    DispatchFrame s (u.resync n) := by
  unfold InstructionFrame at h
  unfold DispatchFrame
  rcases State.resync_cases u n with ⟨-, hr⟩ | ⟨-, hr⟩
  · rw [hr, State.raise_only_fault u _, h]
  · rw [hr, h]

/-- Applying a group's effects and resynchronising keeps the frame of dispatching. -/
theorem State.groupEffect_frame (s : State) (results : List (Slot × State)) (n : Nat) :
    DispatchFrame s ((results.foldl State.applyResult s).resync n) :=
  (InstructionFrame.foldl State.applyResult_frame results s).resync n

/-! ### What the write-back leaves as it was (R262–R267) -/

/-- A list of stores changes the scratchpad alone. -/
theorem State.foldl_only_scratch {α : Type} {op : State → α → State}
    (hop : ∀ s x, op s x = { s with scratch := (op s x).scratch }) (l : List α) (s : State) :
    l.foldl op s = { s with scratch := (l.foldl op s).scratch } := by
  induction l generalizing s with
  | nil => rfl
  | cons x l ih => rw [List.foldl_cons, ih, hop]

theorem State.storeRegs_only_scratch (s : State) : s.storeRegs = { s with scratch := s.storeRegs.scratch } :=
  State.foldl_only_scratch (fun _ _ => rfl) _ s

theorem State.storeF_only_scratch (s : State) : s.storeF = { s with scratch := s.storeF.scratch } :=
  State.foldl_only_scratch (fun _ _ => rfl) _ s

/-- The write-back without its round's end, field by field (R262–R266). -/
theorem State.writtenBack_eq (s : State) :
    s.writtenBack =
      { s with
        r := s.mixedRegs, f := s.foldedF, ma := s.foldedMx, mx := s.ma
        scratch := s.writtenBack.scratch } := by
  unfold State.writtenBack
  rw [State.storeF_only_scratch, State.storeRegs_only_scratch]

/-- The write-back with its round's end, field by field (R262–R267). -/
theorem State.endRound_writtenBack (s : State) :
    s.writtenBack.endRound =
      { s with
        r := s.mixedRegs, f := s.foldedF, ma := s.foldedMx, mx := s.ma
        scratch := s.writtenBack.scratch
        spAddr0 := 0, spAddr1 := 0, round := s.round + 1
        phase := if s.numIter ≤ s.round + 1 then .done else .seed
        agent := if s.numIter ≤ s.round + 1 then .host else .interpret
        output := s.writtenBack.endRound.output } := by
  have h := s.writtenBack_eq
  generalize s.writtenBack = u at *
  unfold State.endRound
  rw [h]
  simp only [decide_eq_true_eq]

/-! ### The effects of a step -/

/-- What one step does, agent by agent and phase by phase (R269, R410, R426, R429). -/
inductive StepEffect (s t : State) : Prop
  /-- a fault: nothing but the record changes (R410, R415) -/
  | fault (rec : FaultRecord) (eq : t = { s with fault := some rec })
  /-- the host starts a hash (R451) -/
  | startHash (scratch : Memory) (queue : List HostCmd) (fits : scratch.fits Config.l3Size = true)
      (eq : t = s.startHash scratch queue)
  /-- the host gives the scratchpad (R426) -/
  | initScratchpad (scratch : Memory) (queue : List HostCmd) (fits : scratch.fits Config.l3Size = true)
      (eq : t = { s with scratch := scratch, hostQueue := queue })
  /-- the host starts a compile (R426) -/
  | startCompile (entropy : Memory) (queue : List HostCmd) (fits : entropy.fits Config.entropySize = true)
      (eq : t = { s with hostQueue := queue }.startCompile entropy)
  /-- the host starts a batch (R268) -/
  | startBatch (numIter : Nat) (first last : Bool) (queue : List HostCmd) (decoded : s.decoded = true)
      (program : s.prog ≠ []) (rounds : numIter ≠ 0)
      (eq : t = { s with hostQueue := queue }.startBatch numIter first last)
  /-- the seed words are decoded (R172–R179) -/
  | decode
      (eq : t = { s.decodeSeeds with compiler := .initial, imm := [], prog := [], agent := .compile (.pass1 0) })
  /-- pass 1 on one raw instruction (R201–R207) -/
  | pass1 (i : Nat) (raw : RawInstr) (eq : t = { s with
      compiler := s.compiler.pass1 s.params i raw, agent := .compile (stageAfter i .pass1 (.pass2 0)) })
  /-- pass 2 on one raw instruction (R208–R225) -/
  | pass2 (i : Nat) (raw : RawInstr) (c : Compiler) (imm : List Word32)
      (placed : s.compiler.pass2 s.params s.imm i raw = .ok (c, imm))
      (eq : t = { s with compiler := c, imm := imm, agent := .compile (stageAfter i .pass2 .emit) })
  /-- the emission (R226–R230) -/
  | emit (prog imm : List Word32) (emitted : s.emitProgram = .ok (prog, imm))
      (eq : t = { s with prog := prog, imm := imm, agent := .host })
  /-- a seeding (R250–R255) -/
  | seed (agent : s.agent = .interpret) (phase : s.phase = .seed) (eq : t = s.seedRegisters.startDispatch)
  /-- a dispatch group whose words all have their effects (R256–R261) -/
  | group (slots : List Slot) (results : List (Slot × State)) (agent : s.agent = .interpret)
      (phase : s.phase = .dispatch) (fetched : s.fetchGroup = .ok slots)
      (ran : s.runSlots slots = .next (.ok results))
      (eq : t = (results.foldl State.applyResult s).resync slots.length) (frame : DispatchFrame s t)
  /-- dispatching has ended (R256, R261) -/
  | dispatchEnd (agent : s.agent = .interpret) (phase : s.phase = .dispatch) (atEnd : s.pc = s.progLen)
      (eq : t = { s with phase := .writeback })
  /-- a write-back (R262–R267) -/
  | writeback (agent : s.agent = .interpret) (phase : s.phase = .writeback) (eq : t = s.writtenBack.endRound)

/-- Raising a fault where none is recorded is the step effect of that name. -/
theorem StepEffect.of_raise {s t : State} {rec : FaultRecord} (hf : s.fault = none) (h : t = s.raise rec) :
    StepEffect s t :=
  .fault rec (h.trans (s.raise_of_none rec hf))

theorem StepEffect.of_hostStep {s t : State} (h : s.hostStep = .next t) : StepEffect s t := by
  obtain ⟨cmd, queue, -, hcmd⟩ := State.hostStep_cases h
  rcases State.takeCmd_cases hcmd with ⟨m, -, hm, ht⟩ | ⟨m, -, hm, ht⟩ | ⟨m, -, hm, ht⟩ |
    ⟨k, first, last, -, hd, hp, hk, ht⟩
  · exact .startHash m queue hm ht
  · exact .initScratchpad m queue hm ht
  · exact .startCompile m queue hm ht
  · exact .startBatch k first last queue hd hp hk ht

theorem StepEffect.of_compileStep {s t : State} {stage : CompileStage} (hf : s.fault = none)
    (h : s.compileStep stage = .next t) : StepEffect s t := by
  rcases State.compileStep_cases h with ⟨-, ht⟩ | ⟨i, raw, -, -, ht⟩ | ⟨i, raw, rec, -, -, -, ht⟩ |
    ⟨i, raw, c, imm, -, -, hp, ht⟩ | ⟨rec, -, -, ht⟩ | ⟨prog, imm, -, he, ht⟩
  · exact .decode ht
  · exact .pass1 i raw ht
  · exact .of_raise hf ht
  · exact .pass2 i raw c imm hp ht
  · exact .of_raise hf ht
  · exact .emit prog imm he ht

theorem StepEffect.of_dispatchStep {s t : State} (hf : s.fault = none) (ha : s.agent = .interpret)
    (hp : s.phase = .dispatch) (h : s.dispatchStep = .next t) : StepEffect s t := by
  rcases State.dispatchStep_cases h with ⟨-, hg⟩ | ⟨hpc, ht⟩ | ⟨-, ht⟩
  · rcases State.groupStep_cases hg with ⟨rec, -, ht⟩ | ⟨slots, rec, -, -, ht⟩ |
      ⟨slots, results, q, p, x, -, -, -, ht⟩ | ⟨slots, results, hfetch, hrun, -, ht⟩
    · exact .of_raise hf ht
    · exact .of_raise hf ht
    · exact .of_raise hf ht
    · exact .group slots results ha hp hfetch hrun ht (ht ▸ s.groupEffect_frame results slots.length)
  · exact .dispatchEnd ha hp hpc ht
  · exact .of_raise hf ht

/-- Every step has one of the effects. -/
theorem step_effect {s t : State} (h : step s = .next t) : StepEffect s t := by
  obtain ⟨-, hf, hs⟩ := step_cases h
  rcases hs with ⟨-, h⟩ | ⟨stage, -, h⟩ | ⟨ha, hp, h⟩ | ⟨ha, hp, h⟩ | ⟨ha, hp, h⟩ | ⟨-, -, h⟩
  · exact .of_hostStep h
  · exact .of_compileStep hf h
  · rcases State.seedStep_cases h with ⟨l, -, -, ht⟩ | ⟨-, ht⟩
    · exact .of_raise hf ht
    · exact .seed ha hp ht
  · exact .of_dispatchStep hf ha hp h
  · rcases State.writebackStep_cases h with ⟨l, -, -, ht⟩ | ⟨a, -, ht⟩ | ⟨-, -, ht⟩
    · exact .of_raise hf ht
    · exact .of_raise hf ht
    · exact .writeback ha hp ht
  · exact .of_hostStep h

end Sys2Proof.Machine
end

section
/-! SUPPORT. The invariants of the scalars, the capacities and the batch: O45, O49 and O47, each proved once per effect
of a step. An effect that leaves an invariant's fields as they were is closed by the invariant's `congr`. -/

namespace Sys2Proof.Machine

/-! ### Masked scalars (R86, R174) -/

theorem and_mask_aligned (x mask : Word32) (h : mask.toNat % 64 = 0) : (x &&& mask).toNat % 64 = 0 := by
  rw [BitVec.toNat_and, show 64 = 2 ^ 6 from rfl, Nat.and_mod_two_pow, show 2 ^ 6 = 64 from rfl, h, Nat.and_zero]

theorem and_mask_below (x mask : Word32) (k : Nat) (h : mask.toNat < 2 ^ k) : (x &&& mask).toNat < 2 ^ k := by
  rw [BitVec.toNat_and]
  exact Nat.and_lt_two_pow _ h

/-- A row address is a row of the scratchpad (R51, R86). -/
theorem and_rowMask_row (x : Word32) : (x &&& rowMask).toNat % 64 = 0 ∧ (x &&& rowMask).toNat < Config.l3Size :=
  ⟨and_mask_aligned x _ (by decide), and_mask_below x _ 21 (by decide)⟩

/-- A cache-line offset lies below 2 GiB (R39, R174). -/
theorem and_datasetAlignMask_offset (x : Word32) :
    (x &&& datasetAlignMask).toNat % 64 = 0 ∧ (x &&& datasetAlignMask).toNat < 2 ^ 31 :=
  ⟨and_mask_aligned x _ (by decide), and_mask_below x _ 31 (by decide)⟩

/-! ### The addresses (R39, R41, R43) -/

/-- The address invariant speaks of four fields only. -/
theorem AddressInv.congr {s t : State} (h : AddressInv s) (ma : t.ma = s.ma)
    (offset : t.datasetOffset = s.datasetOffset) (params : t.params = s.params) (readReg : t.readReg = s.readReg) :
    AddressInv t where
  maAligned := ma ▸ h.maAligned
  maBelow := ma ▸ h.maBelow
  offsetAligned := offset ▸ h.offsetAligned
  offsetBelow := offset ▸ params ▸ h.offsetBelow
  selectors := readReg ▸ h.selectors

/-- The dataset offset the decoder computes, whatever the number of extra items (R178). -/
theorem datasetOffset_range (x items : Nat) :
    (BitVec.ofNat 64 (x % (items + 1) * 64)).toNat % 64 = 0 ∧
      (BitVec.ofNat 64 (x % (items + 1) * 64)).toNat ≤ 64 * items := by
  rw [BitVec.toNat_ofNat]
  have hitem : x % (items + 1) ≤ items := Nat.lt_succ_iff.mp (Nat.mod_lt _ (Nat.succ_pos _))
  have hle : x % (items + 1) * 64 % 2 ^ 64 ≤ x % (items + 1) * 64 := Nat.mod_le _ _
  omega

/-- A selector names one of its two registers (R177). -/
theorem readSelector_val (x : Word64) (k : Fin 4) :
    (readSelector x k).val = 2 * k.val ∨ (readSelector x k).val = 2 * k.val + 1 := by
  have hbit : bitField x.toNat k.val 1 < 2 := Nat.mod_lt _ (by decide)
  simp only [readSelector, Fin.ofNat]
  omega

/-- The decoder establishes the address invariant (R174, R177, R178). -/
theorem State.decodeSeeds_addressInv (s : State) : AddressInv s.decodeSeeds where
  maAligned := (and_datasetAlignMask_offset _).1
  maBelow := (and_datasetAlignMask_offset _).2
  offsetAligned := (datasetOffset_range _ _).1
  offsetBelow := (datasetOffset_range _ _).2
  selectors k := by
    rw [show s.decodeSeeds.readReg = Bank4.ofFn (readSelector (s.seedWord 10)) from rfl, Bank4.get_ofFn]
    exact readSelector_val _ k

theorem State.startHash_addressInv (s : State) (m : Memory) (queue : List HostCmd) :
    AddressInv (s.startHash m queue) where
  maAligned := rfl
  maBelow := show 0 < 2 ^ 31 by decide
  offsetAligned := rfl
  offsetBelow := Nat.zero_le _
  selectors k := by fin_cases k <;> exact .inl rfl

/-- Settles O45: the decoder and the write-back write the scalars in range, no other effect writes them. -/
theorem stepKeepsAddressInv : Obligations.StepKeepsAddressInv := by
  intro s t h hstep
  cases step_effect hstep with
  | startHash m queue _ eq => exact eq ▸ s.startHash_addressInv m queue
  | decode eq =>
    subst eq
    exact s.decodeSeeds_addressInv.congr rfl rfl rfl rfl
  | writeback _ _ eq =>
    rw [eq, State.endRound_writtenBack]
    exact
      { h with
        maAligned := (and_datasetAlignMask_offset _).1
        maBelow := (and_datasetAlignMask_offset _).2 }
  | group _ _ _ _ _ _ _ frame =>
    rw [frame]
    exact h.congr rfl rfl rfl rfl
  | fault _ eq | initScratchpad _ _ _ eq | startCompile _ _ _ eq | startBatch _ _ _ _ _ _ _ eq | pass1 _ _ eq
  | pass2 _ _ _ _ _ eq | emit _ _ _ eq | seed _ _ eq | dispatchEnd _ _ _ eq =>
    subst eq
    exact h.congr rfl rfl rfl rfl

/-! ### The capacities (R46, R47) -/

theorem CapacityInv.congr {s t : State} (h : CapacityInv s) (imm : t.imm = s.imm) (prog : t.prog = s.prog) :
    CapacityInv t where
  imm := imm ▸ h.imm
  prog := prog ▸ h.prog

/-- Writing a branch target adds no immediate entry (R228). -/
theorem length_patchTarget (c : Compiler) (all : List Emitted) (imm : List Word32) (b : Branch) :
    (patchTarget c all imm b).length = imm.length := by
  unfold patchTarget
  split
  · rfl
  · exact List.length_modify ..

theorem length_foldl_patchTarget (c : Compiler) (all : List Emitted) (branches : List Branch) (imm : List Word32) :
    (branches.foldl (patchTarget c all) imm).length = imm.length := by
  induction branches generalizing imm with
  | nil => rfl
  | cons b rest ih => rw [List.foldl_cons, ih, length_patchTarget]

/-- The emission stays within the program's capacity and keeps the number of immediate entries (R229). -/
theorem State.emitProgram_lengths {s : State} {prog imm : List Word32} (h : s.emitProgram = .ok (prog, imm)) :
    prog.length ≤ Config.progCap ∧ imm.length = s.imm.length := by
  unfold State.emitProgram at h
  simp only at h
  split at h
  · cases h
  · next hcap =>
    simp only [Except.ok.injEq, Prod.mk.injEq] at h
    obtain ⟨rfl, rfl⟩ := h
    exact ⟨by rw [List.length_map]; omega, length_foldl_patchTarget ..⟩

/-- Settles O49: the two lists grow only in pass 2 and at emission, and both check the capacity first. -/
theorem stepKeepsCapacityInv : Obligations.StepKeepsCapacityInv := by
  intro s t h hstep
  cases step_effect hstep with
  | startHash _ _ _ eq | decode eq =>
    subst eq
    exact { imm := Nat.zero_le _, prog := Nat.zero_le _ }
  | pass2 i raw c imm placed eq =>
    obtain ⟨-, hcap, -, -, himm⟩ := Compiler.pass2_cases placed
    have hlen : imm.length ≤ Config.immCap := by rw [himm, List.length_append]; exact hcap
    subst eq
    exact { imm := hlen, prog := h.prog }
  | emit prog imm emitted eq =>
    obtain ⟨hprog, himm⟩ := State.emitProgram_lengths emitted
    subst eq
    exact { imm := himm ▸ h.imm, prog := hprog }
  | group _ _ _ _ _ _ _ frame =>
    rw [frame]
    exact h.congr rfl rfl
  | writeback _ _ eq =>
    rw [eq, State.endRound_writtenBack]
    exact h.congr rfl rfl
  | fault _ eq | initScratchpad _ _ _ eq | startCompile _ _ _ eq | startBatch _ _ _ _ _ _ _ eq | pass1 _ _ eq
  | seed _ _ eq | dispatchEnd _ _ _ eq =>
    subst eq
    exact h.congr rfl rfl

/-! ### The batch (R37, R50, R51) -/

/-- Outside a batch the invariant asks nothing. -/
theorem BatchInv.of_not_interpret {t : State} (h : t.agent ≠ .interpret) : BatchInv t where
  decoded ha := absurd ha h
  program ha := absurd ha h
  round ha := absurd ha h
  phase ha := absurd ha h
  seeded hr := absurd hr.1 h
  addr0 hr := absurd hr.1 h
  addr1 hr := absurd hr.1 h

/-- A state whose fields of the batch are as before, and which dispatches only where the one before did. -/
theorem BatchInv.congr {s t : State} (h : BatchInv s) (agent : t.agent = s.agent) (decoded : t.decoded = s.decoded)
    (prog : t.prog = s.prog) (round : t.round = s.round) (numIter : t.numIter = s.numIter)
    (seeded : t.seeded = s.seeded) (addr0 : t.spAddr0 = s.spAddr0) (addr1 : t.spAddr1 = s.spAddr1)
    (phase : t.agent = .interpret → t.phase ≠ .done) (inRound : t.inRound → s.inRound) : BatchInv t where
  decoded ha := decoded ▸ h.decoded (agent ▸ ha)
  program ha := prog ▸ h.program (agent ▸ ha)
  round ha := round ▸ numIter ▸ h.round (agent ▸ ha)
  phase := phase
  seeded hr := seeded ▸ h.seeded (inRound hr)
  addr0 hr := addr0 ▸ h.addr0 (inRound hr)
  addr1 hr := addr1 ▸ h.addr1 (inRound hr)

/-- While the phase is SEED no round's dispatching is under way. -/
theorem State.not_inRound_of_seed {s : State} (h : s.phase = .seed) : ¬ s.inRound := by
  rintro ⟨-, hp | hp⟩ <;> simp [h] at hp

/-- A group leaves the phase at DISPATCH or ends it at WRITEBACK (R259, R261). -/
theorem State.resync_phase {s : State} (h : s.phase = .dispatch) (n : Nat) :
    (s.resync n).phase = .dispatch ∨ (s.resync n).phase = .writeback := by
  rcases State.resync_cases s n with ⟨-, hr⟩ | ⟨-, hr⟩
  · exact .inl (by rw [hr, State.raise_only_fault s _, h])
  · rw [hr]
    exact (Decidable.em (_ = s.progLen)).symm.imp (fun hp => if_neg hp) fun hp => if_pos hp

theorem BatchInv.startBatch {s : State} (numIter : Nat) (first last : Bool) (decoded : s.decoded = true)
    (program : s.prog ≠ []) (rounds : numIter ≠ 0) : BatchInv (s.startBatch numIter first last) where
  decoded _ := decoded
  program _ := program
  round _ := Nat.pos_of_ne_zero rounds
  phase _ := nofun
  seeded hr := absurd hr (State.not_inRound_of_seed rfl)
  addr0 hr := absurd hr (State.not_inRound_of_seed rfl)
  addr1 hr := absurd hr (State.not_inRound_of_seed rfl)

/-- Seeding writes F and E and both row addresses (R250–R253). -/
theorem BatchInv.seed {s : State} (h : BatchInv s) : BatchInv s.seedRegisters.startDispatch where
  decoded := h.decoded
  program := h.program
  round := h.round
  phase _ := nofun
  seeded _ := rfl
  addr0 _ := and_rowMask_row _
  addr1 _ := and_rowMask_row _

/-- The round's end goes on to a next round only below `NUM_ITER` (R267). -/
theorem BatchInv.writeback {s : State} (h : BatchInv s) (ha : s.agent = .interpret) :
    BatchInv s.writtenBack.endRound := by
  rw [State.endRound_writtenBack]
  by_cases hend : s.numIter ≤ s.round + 1
  · refine .of_not_interpret ?_
    simp [hend]
  · rw [if_neg hend, if_neg hend]
    exact
      { decoded := fun _ => h.decoded ha
        program := fun _ => h.program ha
        round := fun _ => Nat.lt_of_not_le hend
        phase := fun _ => nofun
        seeded := fun hr => absurd hr (State.not_inRound_of_seed rfl)
        addr0 := fun hr => absurd hr (State.not_inRound_of_seed rfl)
        addr1 := fun hr => absurd hr (State.not_inRound_of_seed rfl) }

/-- A group keeps the batch: it changes neither the program nor the round and stays in it. -/
theorem BatchInv.group {s t : State} (h : BatchInv s) (frame : DispatchFrame s t) (agent : s.agent = .interpret)
    (before : s.phase = .dispatch) (after : t.phase = .dispatch ∨ t.phase = .writeback) : BatchInv t := by
  have hdone : t.phase ≠ .done := by rcases after with hp | hp <;> simp [hp]
  have hround : s.inRound := ⟨agent, .inl before⟩
  rw [frame]
  exact h.congr rfl rfl rfl rfl rfl rfl rfl rfl (fun _ => hdone) fun _ => hround

/-- Settles O47: a batch starts with a program, a seeding gives it values and rows, and only the round's end, which
checks `NUM_ITER`, moves the round. -/
theorem stepKeepsBatchInv : Obligations.StepKeepsBatchInv := by
  intro s t h hstep
  cases step_effect hstep with
  | fault _ eq | initScratchpad _ _ _ eq =>
    subst eq
    exact h.congr rfl rfl rfl rfl rfl rfl rfl rfl h.phase id
  | startHash _ _ _ eq | startCompile _ _ _ eq | decode eq | pass1 _ _ eq | pass2 _ _ _ _ _ eq | emit _ _ _ eq =>
    subst eq
    exact .of_not_interpret nofun
  | startBatch numIter first last _ decoded program rounds eq =>
    exact eq ▸ BatchInv.startBatch numIter first last decoded program rounds
  | seed _ _ eq => exact eq ▸ h.seed
  | group slots results agent phase _ _ eq frame =>
    have heffects := InstructionFrame.foldl State.applyResult_frame results s
    have hphase : (results.foldl State.applyResult s).phase = .dispatch := by rw [heffects]; exact phase
    exact h.group frame agent phase (eq ▸ State.resync_phase hphase _)
  | dispatchEnd agent phase _ eq =>
    subst eq
    exact h.group rfl agent phase (.inr rfl)
  | writeback agent _ eq => exact eq ▸ h.writeback agent

end Sys2Proof.Machine
end

section
/-! SUPPORT. O46, the lanes between groups. What makes the resynchronisation succeed is that no lane ever requests a
jump past the program: R381 checks a CBRANCH's target before the request, and merging the words' results only moves
lanes from one state to another. With the group's own range check (R256) every vote is then in range. -/

namespace Sys2Proof.Machine

/-! ### Requests in range (R381) -/

/-- A lane's jump request, if it makes one, is for a word below `n`. -/
def Lane.JumpBelow (n : Nat) (l : Lane) : Prop := l.jreq = true → l.jtgt.toNat < n

/-- Every lane's jump request is for a word below `n`. -/
def State.JumpsBelow (n : Nat) (s : State) : Prop := ∀ l ∈ s.lanes, l.JumpBelow n

theorem Lane.fresh_jumpBelow (n pc : Nat) (mode : BitVec 2) : (Lane.fresh pc mode).JumpBelow n := nofun

/-- A change of one lane that keeps a property of lanes keeps it of every lane. -/
theorem State.forall_lanes_modifyLane {P : Lane → Prop} {s : State} (h : ∀ l ∈ s.lanes, P l) (i : Nat)
    {g : Lane → Lane} (hg : ∀ l, P l → P (g l)) : ∀ l ∈ (s.modifyLane i g).lanes, P l := by
  intro l hl
  obtain ⟨j, hj⟩ := List.mem_iff_getElem?.mp hl
  rw [State.modifyLane_lanes, List.getElem?_modify, Option.map_eq_map, Option.map_eq_some_iff] at hj
  obtain ⟨m, hm, rfl⟩ := hj
  have hPm : P m := h m (List.mem_of_getElem? hm)
  split
  · exact hg m hPm
  · exact hPm

theorem State.JumpsBelow.requestJump {n : Nat} {s : State} (h : s.JumpsBelow n) {target : BitVec 16}
    (ht : target.toNat < n) : (s.requestJump target).JumpsBelow n :=
  List.foldlRecOn _ _ h fun _ hu i _ => State.forall_lanes_modifyLane hu i fun _ _ _ => ht

theorem State.JumpsBelow.requestRounding {n : Nat} {s : State} (h : s.JumpsBelow n) (mode : BitVec 2) :
    (s.requestRounding mode).JumpsBelow n :=
  List.foldlRecOn _ _ h fun _ hu i _ => State.forall_lanes_modifyLane hu i fun _ hl => hl

theorem State.JumpsBelow.raise {n : Nat} {s : State} (h : s.JumpsBelow n) (rec : FaultRecord) :
    (s.raise rec).JumpsBelow n := by
  rw [s.raise_only_fault rec]
  exact h

/-- What holds where executing a word raises a fault and where it has its effect holds after executing it. -/
theorem State.executing_keeps {P : State → Prop} {s t : State} {i : Instr} {places : List Location}
    {effect : Host.Outcome State Fault Refusal} (h : s.executing i places effect = .next t)
    (hraise : ∀ rec, P (s.raise rec)) (heffect : ∀ u, effect = .next u → P u) : P t := by
  rcases State.executing_cases h with ⟨-, rfl⟩ | ⟨-, l, -, -, rfl⟩ | ⟨-, -, he⟩
  · exact hraise _
  · exact hraise _
  · exact heffect t he

/-- What holds where a CBRANCH faults, where it only writes its register, and where it then requests a jump inside the
program, holds after executing it (R380, R381). -/
theorem execCbranch_keeps {P : State → Prop} {s t : State} {w : Fields} (h : exec (.cbranch w) s = .next t)
    (hraise : ∀ rec, P (s.raise rec)) (hset : P (s.setReg w.dst (s.reg w.dst + s.immSext w.immIdx.val)))
    (hjump : ∀ target : BitVec 16, target.toNat < s.progLen →
      P ((s.setReg w.dst (s.reg w.dst + s.immSext w.immIdx.val)).requestJump target)) : P t := by
  refine State.executing_keeps h hraise fun u hu => ?_
  split at hu
  · split at hu
    · next htarget =>
      simp only [Host.Outcome.next.injEq] at hu
      subst hu
      split
      · exact hjump _ (Nat.lt_of_le_of_lt (Nat.mod_le _ _) htarget)
      · exact hset
    · simp only [State.faultWord, Host.Outcome.next.injEq] at hu
      exact hu ▸ hraise _
  · simp only [State.faultWord, Host.Outcome.next.injEq] at hu
    exact hu ▸ hraise _

/-- No instruction requests a jump past the program: CBRANCH alone requests one, behind R381's check. -/
theorem exec_jumpsBelow {i : Instr} {s t : State} {n : Nat} (h : exec i s = .next t) (hn : s.progLen ≤ n)
    (hs : s.JumpsBelow n) : t.JumpsBelow n := by
  cases i with
  | cbranch w =>
    refine execCbranch_keeps h hs.raise hs fun target htarget => ?_
    exact (show (s.setReg w.dst _).JumpsBelow n from hs).requestJump (Nat.lt_of_lt_of_le htarget hn)
  | cfround w =>
    refine State.executing_keeps h hs.raise fun u hu => ?_
    simp only [Host.Outcome.next.injEq] at hu
    exact hu ▸ hs.requestRounding _
  | fswapR w =>
    simp only [exec, execFswapR] at h
    split at h <;>
    · refine State.executing_keeps h hs.raise fun u hu => ?_
      simp only [Host.Outcome.next.injEq] at hu
      subst hu
      exact hs
  | _ =>
    refine State.executing_keeps h hs.raise fun u hu => ?_
    simp only [Host.Outcome.next.injEq] at hu
    subst hu
    exact hs

/-! ### Fetching and running a group (R256–R258) -/

theorem State.fetchRest_length {s : State} {nf count j : Nat} {rest : List Slot}
    (h : s.fetchRest nf count j = .ok rest) : rest.length = count := by
  induction count generalizing j rest with
  | zero =>
    cases h
    rfl
  | succ count ih =>
    simp only [State.fetchRest] at h
    split at h
    · cases h
    · split at h
      · cases h
      · next hrest =>
        cases h
        rw [List.length_cons, ih hrest]

/-- A fetched group ends inside the program (R256). -/
theorem State.fetchGroup_inside {s : State} {slots : List Slot} (h : s.fetchGroup = .ok slots) :
    s.pc + slots.length ≤ s.progLen := by
  unfold State.fetchGroup at h
  split at h
  · cases h
  · split at h
    · next hcounts =>
      split at h
      · next hrange =>
        split at h
        · cases h
        · next hrest =>
          cases h
          simp only [groupCountsLegal, Bool.and_eq_true, bne_iff_ne] at hcounts
          obtain ⟨⟨⟨hpos, -⟩, -⟩, -⟩ := hcounts
          rw [List.length_cons, State.fetchRest_length hrest]
          omega
      · cases h
    · cases h

/-- Each result of a group is its word's own, on the state before the group (R258). -/
theorem State.runSlots_mem {s : State} {slots : List Slot} {results : List (Slot × State)}
    (h : s.runSlots slots = .next (.ok results)) :
    ∀ result ∈ results, exec result.1.instr (s.withIssue result.1.issue) = .next result.2 := by
  induction slots generalizing results with
  | nil =>
    cases h
    simp
  | cons q rest ih =>
    simp only [State.runSlots] at h
    split at h
    · cases h
    · cases h
    · next t ht =>
      split at h
      · cases h
      · split at h
        · cases h
        · cases h
        · cases h
        · next tail htail =>
          simp only [Host.Outcome.next.injEq, Except.ok.injEq] at h
          subst h
          exact List.forall_mem_cons.mpr ⟨ht, ih htail⟩

/-! ### Merging the results (R258) -/

/-- What holds before a group, and survives taking a resource or a lane from a word's result, holds after all the
words' effects. -/
theorem State.foldl_applyResult_keeps (P : State → Prop) {s : State} {results : List (Slot × State)} (hs : P s)
    (hresource : ∀ result ∈ results, ∀ u x, P u → P (result.2.takeResource u x))
    (hlane : ∀ result ∈ results, ∀ u i, P u → P (result.2.takeLane u i)) :
    P (results.foldl State.applyResult s) :=
  List.foldlRecOn _ _ hs fun _ hu result hr =>
    List.foldlRecOn _ _ (List.foldlRecOn _ _ hu fun v hv x _ => hresource result hr v x hv) fun v hv i _ =>
      hlane result hr v i hv

theorem State.takeResource_lanes (own s : State) (x : Resource) : (own.takeResource s x).lanes = s.lanes := by
  cases x <;> rfl

theorem State.takeLane_lanes_length (own s : State) (i : Nat) : (own.takeLane s i).lanes.length = s.lanes.length := by
  unfold State.takeLane
  split
  · rfl
  · exact List.length_modify ..

theorem State.JumpsBelow.takeLane {n : Nat} {own s : State} (hs : s.JumpsBelow n) (hown : own.JumpsBelow n)
    (i : Nat) : (own.takeLane s i).JumpsBelow n := by
  unfold State.takeLane
  split
  · exact hs
  · next l hl => exact State.forall_lanes_modifyLane hs i fun _ _ => hown l (List.mem_of_getElem? hl)

/-- A group's effects keep the number of lanes. -/
theorem State.groupEffect_lanes_length (s : State) (results : List (Slot × State)) :
    (results.foldl State.applyResult s).lanes.length = s.lanes.length :=
  State.foldl_applyResult_keeps (fun u => u.lanes.length = s.lanes.length) rfl
    (fun result _ u x hu => (congrArg List.length (result.2.takeResource_lanes u x)).trans hu)
    fun result _ u i hu => (result.2.takeLane_lanes_length u i).trans hu

/-- A group's effects keep every jump request inside the program. -/
theorem State.JumpsBelow.groupEffect {s : State} {slots : List Slot} {results : List (Slot × State)}
    (hs : s.JumpsBelow s.progLen) (hrun : s.runSlots slots = .next (.ok results)) :
    (results.foldl State.applyResult s).JumpsBelow s.progLen := by
  have hown : ∀ result ∈ results, result.2.JumpsBelow s.progLen := fun result hr =>
    exec_jumpsBelow (State.runSlots_mem hrun result hr) (Nat.le_refl _) hs
  refine State.foldl_applyResult_keeps _ hs (fun result _ u x hu => ?_) fun result hr u i hu => ?_
  · unfold State.JumpsBelow
    rw [State.takeResource_lanes]
    exact hu
  · exact hu.takeLane (hown result hr) i

/-! ### The resynchronisation (R259–R261) -/

/-- A vote for a jump is some lane's request. -/
theorem jumpVote_below {lanes : List Lane} {n target : Nat} (h : ∀ l ∈ lanes, l.JumpBelow n)
    (hv : jumpVote lanes = some target) : target < n := by
  obtain ⟨l, hl, rfl⟩ := Option.map_eq_some_iff.mp hv
  exact h l (List.mem_of_find?_eq_some hl) (List.find?_some hl)

/-- The next `pc` is in range when every request is and the group ends inside the program. -/
theorem jumpVote_getD_le {lanes : List Lane} {n next : Nat} (h : ∀ l ∈ lanes, l.JumpBelow n) (hnext : next ≤ n) :
    (jumpVote lanes).getD next ≤ n := by
  cases hv : jumpVote lanes with
  | none => exact hnext
  | some target => exact Nat.le_of_lt (jumpVote_below h hv)

/-- The resynchronisation brings every lane to one `pc`, in range, and one mode. -/
theorem State.resync_laneInv {u : State} {n : Nat} (hlen : u.lanes.length = u.params.w)
    (hjumps : u.JumpsBelow u.progLen) (hnext : u.pc + n ≤ u.progLen) (hidle : u.issue = ⟨0, 0, false⟩) :
    LaneInv (u.resync n) := by
  have htarget : (jumpVote u.lanes).getD (u.pc + n) ≤ u.progLen := jumpVote_getD_le hjumps hnext
  rcases u.resync_cases n with ⟨hpast, -⟩ | ⟨-, hr⟩
  · omega
  · rw [hr]
    exact
      { lanes := by rw [List.map_const', hlen]
        pcRange := fun _ => htarget
        idle := hidle }

/-! ### Every step -/

/-- A state with the lanes, `pc`, mode and program of one before, in a round only where that one was. -/
theorem LaneInv.congr {s t : State} (h : LaneInv s) (lanes : t.lanes = s.lanes) (params : t.params = s.params)
    (pc : t.pc = s.pc) (fprc : t.fprc = s.fprc) (issue : t.issue = s.issue)
    (pcRange : t.inRound → s.pc ≤ t.progLen) : LaneInv t where
  lanes := by rw [lanes, params, pc, fprc, h.lanes]
  pcRange hr := pc ▸ pcRange hr
  idle := issue.trans h.idle

theorem LaneInv.jumpsBelow {s : State} (h : LaneInv s) (n : Nat) : s.JumpsBelow n := by
  intro l hl
  rw [h.lanes] at hl
  exact List.eq_of_mem_replicate hl ▸ Lane.fresh_jumpBelow n _ _

/-- A group whose words all have their effects ends resynchronised. -/
theorem LaneInv.group {s : State} {slots : List Slot} {results : List (Slot × State)} (h : LaneInv s)
    (hfetch : s.fetchGroup = .ok slots) (hrun : s.runSlots slots = .next (.ok results)) :
    LaneInv ((results.foldl State.applyResult s).resync slots.length) := by
  have hframe := InstructionFrame.foldl State.applyResult_frame results s
  have hprog : (results.foldl State.applyResult s).progLen = s.progLen := by rw [hframe]; rfl
  refine State.resync_laneInv ?_ (hprog ▸ (h.jumpsBelow _).groupEffect hrun) ?_ ?_
  · rw [State.groupEffect_lanes_length, h.lanes, List.length_replicate, hframe]
  · have hpc : (results.foldl State.applyResult s).pc = s.pc := by rw [hframe]
    rw [hprog, hpc]
    exact State.fetchGroup_inside hfetch
  · rw [hframe]
    exact h.idle

/-- Seeding releases every lane to word 0 (R255). -/
theorem LaneInv.seed {s : State} (h : LaneInv s) : LaneInv s.seedRegisters.startDispatch where
  lanes := by
    change s.lanes.map (fun _ => Lane.fresh 0 s.fprc) = List.replicate s.params.w (Lane.fresh 0 s.fprc)
    rw [List.map_const', h.lanes, List.length_replicate]
  pcRange _ := Nat.zero_le _
  idle := h.idle

/-- Settles O46: the lanes change only where a hash, a batch, a seeding or a group's end makes them all alike. -/
theorem stepKeepsLaneInv : Obligations.StepKeepsLaneInv := by
  intro s t h hstep
  cases step_effect hstep with
  | fault _ eq | initScratchpad _ _ _ eq =>
    subst eq
    exact h.congr rfl rfl rfl rfl rfl h.pcRange
  | startHash _ _ _ eq =>
    subst eq
    exact { lanes := rfl, pcRange := nofun, idle := rfl }
  | startCompile _ _ _ eq | decode eq | pass1 _ _ eq | pass2 _ _ _ _ _ eq | emit _ _ _ eq =>
    subst eq
    exact h.congr rfl rfl rfl rfl rfl nofun
  | startBatch _ _ _ _ _ _ _ eq =>
    subst eq
    exact { lanes := rfl, pcRange := fun hr => absurd hr (State.not_inRound_of_seed rfl), idle := h.idle }
  | seed _ _ eq => exact eq ▸ h.seed
  | group _ _ _ _ fetched ran eq => exact eq ▸ h.group fetched ran
  | dispatchEnd _ _ atEnd eq =>
    subst eq
    exact h.congr rfl rfl rfl rfl rfl fun _ => atEnd.le
  | writeback agent phase eq =>
    rw [eq, State.endRound_writtenBack]
    exact h.congr rfl rfl rfl rfl rfl fun _ => h.pcRange ⟨agent, .inr phase⟩

end Sys2Proof.Machine
end

section
/-! SUPPORT. O48, group E. Its halves are non-negative numbers or +∞ and its partners (group A and the masked divisors)
are positive and finite, so a product, a quotient or a root is rounded from a non-negative exact value, and rounding
gives no sign and no NaN. -/

namespace Sys2Proof.Machine

open Sys2Proof.Config (RoundMode)

/-! ### Patterns by range -/

theorem isNonNegative_iff (x : Word64) : isNonNegative x = true ↔ x.toNat ≤ fpInfBits := decide_eq_true_iff

/-- A positive normal finite pattern: its exponent field is neither 0 nor all ones, its sign 0. -/
def isPositiveNormal (x : Word64) : Prop := 2 ^ 52 ≤ x.toNat ∧ x.toNat < fpInfBits

theorem isNonNegative_of_isPositiveNormal {x : Word64} (h : isPositiveNormal x) : isNonNegative x = true :=
  (isNonNegative_iff x).mpr (Nat.le_of_lt h.2)

theorem isPositiveNormal_of_isSmallPositive {x : Word64} (h : isSmallPositive x = true) : isPositiveNormal x := by
  simp only [isSmallPositive, Bool.and_eq_true, decide_eq_true_eq] at h
  exact ⟨by omega, by simp only [fpInfBits]; omega⟩

/-- A non-negative pattern is +∞ or a finite number without a sign. -/
theorem fpDecode_of_isNonNegative {x : Word64} (h : isNonNegative x = true) :
    fpDecode x = .inf false ∨ ∃ m g, fpDecode x = .fin false m g := by
  rw [isNonNegative_iff] at h
  simp only [fpInfBits] at h
  have hsign : decide (x.toNat / 2 ^ 63 % 2 = 1) = false := decide_eq_false (by omega)
  simp only [fpDecode, hsign]
  split
  · split
    · exact .inl rfl
    · omega
  · split
    · exact .inr ⟨_, _, rfl⟩
    · exact .inr ⟨_, _, rfl⟩

/-- A positive normal pattern is a finite number with a significand that is not 0. -/
theorem fpDecode_of_isPositiveNormal {x : Word64} (h : isPositiveNormal x) :
    ∃ m g, m ≠ 0 ∧ fpDecode x = .fin false m g := by
  obtain ⟨hlow, hhigh⟩ := h
  simp only [fpInfBits] at hhigh
  have hsign : decide (x.toNat / 2 ^ 63 % 2 = 1) = false := decide_eq_false (by omega)
  have hfinite : x.toNat / 2 ^ 52 % 2 ^ 11 ≠ 2047 := by omega
  have hnormal : x.toNat / 2 ^ 52 % 2 ^ 11 ≠ 0 := by omega
  refine ⟨2 ^ 52 + x.toNat % 2 ^ 52, (x.toNat / 2 ^ 52 % 2 ^ 11 : Nat) - 1075, by positivity, ?_⟩
  simp only [fpDecode, hsign, if_neg hfinite, if_neg hnormal]

/-! ### Rounding without a sign (R340) -/

theorem isNonNegative_fpPattern {magn : Nat} (h : magn ≤ fpInfBits) : isNonNegative (fpPattern false magn) = true := by
  rw [isNonNegative_iff]
  simp only [fpPattern, Bool.false_eq_true, if_false, Nat.zero_add, BitVec.toNat_ofNat]
  exact (Nat.mod_le _ _).trans h

theorem overflowBits_le (mode : RoundMode) (neg : Bool) : overflowBits mode neg ≤ fpInfBits := by
  cases mode <;> cases neg <;> decide

/-- A rounded magnitude, or what overflow makes of it, is at most infinity's. -/
theorem ite_overflowBits_le (mode : RoundMode) (neg : Bool) (magn : Nat) :
    (if magn < fpInfBits then magn else overflowBits mode neg) ≤ fpInfBits := by
  split
  · next h => exact Nat.le_of_lt h
  · exact overflowBits_le mode neg

/-- Rounding a magnitude gives no sign and no NaN, whatever the direction. -/
theorem isNonNegative_roundPack (mode : RoundMode) (m : Nat) (g : Int) (sticky : Bool) :
    isNonNegative (roundPack mode false m g sticky) = true := by
  unfold roundPack
  split
  · exact isNonNegative_fpPattern (Nat.zero_le _)
  · exact isNonNegative_fpPattern (ite_overflowBits_le mode false _)

/-! ### The operations of group E (R352–R354) -/

/-- A product with a positive finite number (R352). -/
theorem isNonNegative_fmul (mode : RoundMode) {x y : Word64} (hx : isNonNegative x = true) (hy : isPositiveNormal y) :
    isNonNegative (fmul mode x y) = true := by
  obtain ⟨n, k, hn, hy⟩ := fpDecode_of_isPositiveNormal hy
  rcases fpDecode_of_isNonNegative hx with hx | ⟨m, g, hx⟩
  · simp only [fmul, hx, hy, if_neg hn]
    exact isNonNegative_fpPattern (Nat.le_refl _)
  · simp only [fmul, hx, hy]
    exact isNonNegative_roundPack _ _ _ _

/-- A quotient by a positive finite number (R353). -/
theorem isNonNegative_fdiv (mode : RoundMode) {x y : Word64} (hx : isNonNegative x = true) (hy : isPositiveNormal y) :
    isNonNegative (fdiv mode x y) = true := by
  obtain ⟨n, k, hn, hy⟩ := fpDecode_of_isPositiveNormal hy
  rcases fpDecode_of_isNonNegative hx with hx | ⟨m, g, hx⟩
  · simp only [fdiv, hx, hy]
    exact isNonNegative_fpPattern (Nat.le_refl _)
  · simp only [fdiv, hx, hy, if_neg hn]
    exact isNonNegative_roundPack _ _ _ _

/-- A root (R354). -/
theorem isNonNegative_fsqrt (mode : RoundMode) {x : Word64} (hx : isNonNegative x = true) :
    isNonNegative (fsqrt mode x) = true := by
  rcases fpDecode_of_isNonNegative hx with hx | ⟨m, g, hx⟩
  · simp only [fsqrt, hx]
    exact isNonNegative_fpPattern (Nat.le_refl _)
  · simp only [fsqrt, hx, Bool.false_eq_true, if_false]
    split
    · exact isNonNegative_fpPattern (Nat.zero_le _)
    · exact isNonNegative_roundPack _ _ _ _

/-! ### Masks and group A (R42, R173, R176, R342) -/

/-- A mask of R42's shape lies between its fixed exponent bits `0x300` and the next ones. -/
theorem isExponentMask_range {m : Word64} (h : isExponentMask m = true) :
    3 * 2 ^ 60 ≤ m.toNat ∧ m.toNat < 2 ^ 62 := by
  simp only [isExponentMask, bitField, Bool.and_eq_true, beq_iff_eq] at h
  obtain ⟨⟨⟨hsign, hfixed⟩, -⟩, -⟩ := h
  omega

/-- Masking keeps the mask's top bits and clears the word's, so its result is positive and finite (R342). -/
theorem isPositiveNormal_maskE (x : Word64) {m : Word64} (h : isExponentMask m = true) :
    isPositiveNormal (maskE x m) := by
  obtain ⟨hlow, hhigh⟩ := isExponentMask_range h
  have hclear : (x &&& 0x00FFFFFFFFFFFFFF).toNat < 2 ^ 62 := by
    rw [BitVec.toNat_and]
    exact Nat.and_lt_two_pow _ (by decide)
  have hor : (maskE x m).toNat = (x &&& 0x00FFFFFFFFFFFFFF).toNat ||| m.toNat := BitVec.toNat_or _ _
  have hge : m.toNat ≤ (maskE x m).toNat := hor ▸ Nat.right_le_or
  have hlt : (maskE x m).toNat < 2 ^ 62 := hor ▸ Nat.or_lt_two_pow hclear hhigh
  exact ⟨by omega, by simp only [fpInfBits]; omega⟩

/-- The exponent mask as a sum of its fields: the seed's low 22 bits, `0x300`, and the seed's top four bits (R176). -/
theorem exponentMask_toNat (x : Word64) :
    (exponentMask x).toNat = (0x300 + x.toNat / 2 ^ 60 * 2 ^ 4) * 2 ^ 52 + x.toNat % 2 ^ 22 := by
  have htop : x.toNat / 2 ^ 60 < 2 ^ 4 := by omega
  have hshifted : x.toNat / 2 ^ 60 * 2 ^ 4 < 2 ^ 8 := by omega
  have hexp : 0x300 ||| x.toNat / 2 ^ 60 * 2 ^ 4 = 0x300 + x.toNat / 2 ^ 60 * 2 ^ 4 :=
    (Nat.two_pow_add_eq_or_of_lt hshifted 3).symm
  have hlow : (x &&& 0x3FFFFF).toNat = x.toNat % 2 ^ 22 := by
    rw [BitVec.toNat_and]
    exact Nat.and_two_pow_sub_one_eq_mod _ 22
  have hlt : x.toNat % 2 ^ 22 < 2 ^ 52 := by omega
  have hfits : (0x300 + x.toNat / 2 ^ 60 * 2 ^ 4) * 2 ^ 52 < 2 ^ 64 := by omega
  rw [exponentMask, BitVec.toNat_or, hlow, hexp, BitVec.toNat_ofNat, Nat.mod_eq_of_lt hfits, Nat.or_comm,
    Nat.mul_comm _ (2 ^ 52), Nat.two_pow_add_eq_or_of_lt hlt]

theorem isExponentMask_exponentMask (x : Word64) : isExponentMask (exponentMask x) = true := by
  simp only [isExponentMask, bitField, exponentMask_toNat, Bool.and_eq_true, beq_iff_eq]
  have htop : x.toNat / 2 ^ 60 < 2 ^ 4 := by omega
  have hlow : x.toNat % 2 ^ 22 < 2 ^ 22 := Nat.mod_lt _ (by decide)
  generalize x.toNat / 2 ^ 60 = top at *
  generalize x.toNat % 2 ^ 22 = low at *
  omega

theorem isSmallPositive_smallPositiveFloat (x : Word64) : isSmallPositive (smallPositiveFloat x) = true := by
  simp only [isSmallPositive, smallPositiveFloat, BitVec.toNat_ofNat, Bool.and_eq_true, decide_eq_true_eq]
  have hexp : (x.toNat / 2 ^ 59 + 1023) % 2 ^ 11 = x.toNat / 2 ^ 59 + 1023 := by omega
  have htop : x.toNat / 2 ^ 59 < 2 ^ 5 := by omega
  have hfrac : x.toNat % 2 ^ 52 < 2 ^ 52 := Nat.mod_lt _ (by decide)
  rw [hexp]
  generalize x.toNat / 2 ^ 59 = top at *
  generalize x.toNat % 2 ^ 52 = frac at *
  omega

/-! ### The invariant under the operations -/

/-- The invariant speaks of group E, group A and the masks only. -/
theorem GroupEInv.congr {s t : State} (h : GroupEInv s) (mask0 : t.eMask0 = s.eMask0) (mask1 : t.eMask1 = s.eMask1)
    (groupA : t.a = s.a) (groupE : ∀ (k : Fin 4) (h : Half), isNonNegative ((t.eReg k).half h) = true) :
    GroupEInv t where
  masks half := by
    have hmask : t.eMask half = s.eMask half := by
      cases half
      · exact mask0
      · exact mask1
    exact hmask ▸ h.masks half
  groupA k half := by
    rw [State.aReg, groupA]
    exact h.groupA k half
  groupE := groupE

theorem GroupEInv.raise {s : State} (h : GroupEInv s) (rec : FaultRecord) : GroupEInv (s.raise rec) := by
  rw [s.raise_only_fault rec]
  exact h.congr rfl rfl rfl h.groupE

/-- One register of group E may take any non-negative halves. -/
theorem GroupEInv.setEReg {s : State} (h : GroupEInv s) (j : Fin 4) {v : FReg}
    (hv : ∀ half, isNonNegative (v.half half) = true) : GroupEInv (s.setEReg j v) := by
  refine h.congr rfl rfl rfl fun k half => ?_
  by_cases hk : k = j
  · rw [hk, State.eReg_setEReg_same]
    exact hv half
  · rw [State.eReg_setEReg_of_ne s v hk]
    exact h.groupE k half

/-- Every instruction keeps the invariant: FSWAP_R moves halves of group E, FMUL_R, FDIV_M and FSQRT_R compute them,
no other word writes one (R346, R352–R354). -/
theorem exec_keeps_groupEInv {i : Instr} {s t : State} (hs : GroupEInv s) (h : exec i s = .next t) :
    GroupEInv t := by
  cases i with
  | fswapR w =>
    simp only [exec, execFswapR] at h
    split at h
    · refine State.executing_keeps h hs.raise fun u hu => ?_
      cases hu
      exact hs.congr rfl rfl rfl hs.groupE
    · refine State.executing_keeps h hs.raise fun u hu => ?_
      cases hu
      refine hs.setEReg _ fun half => ?_
      rw [FReg.half_ofHalves]
      exact hs.groupE _ _
  | fmulR w =>
    refine State.executing_keeps h hs.raise fun u hu => ?_
    cases hu
    refine hs.setEReg _ fun half => ?_
    rw [State.byHalf, FReg.half_ofHalves]
    exact isNonNegative_fmul _ (hs.groupE _ _) (isPositiveNormal_of_isSmallPositive (hs.groupA _ _))
  | fdivM w =>
    refine State.executing_keeps h hs.raise fun u hu => ?_
    cases hu
    refine hs.setEReg _ fun half => ?_
    rw [State.byHalf, FReg.half_ofHalves]
    exact isNonNegative_fdiv _ (hs.groupE _ _) (isPositiveNormal_maskE _ (hs.masks half))
  | fsqrtR w =>
    refine State.executing_keeps h hs.raise fun u hu => ?_
    cases hu
    refine hs.setEReg _ fun half => ?_
    rw [FReg.half_ofHalves]
    exact isNonNegative_fsqrt _ (hs.groupE _ _)
  | cbranch w =>
    refine execCbranch_keeps h hs.raise (hs.congr rfl rfl rfl hs.groupE) fun target _ => ?_
    rw [State.requestJump_only_lanes]
    exact hs.congr rfl rfl rfl hs.groupE
  | cfround w =>
    refine State.executing_keeps h hs.raise fun u hu => ?_
    simp only [Host.Outcome.next.injEq] at hu
    rw [← hu, State.requestRounding_only_lanes]
    exact hs.congr rfl rfl rfl hs.groupE
  | _ =>
    refine State.executing_keeps h hs.raise fun u hu => ?_
    simp only [Host.Outcome.next.injEq] at hu
    subst hu
    exact hs.congr rfl rfl rfl hs.groupE

/-- Taking any resource from a state with the invariant keeps it. -/
theorem GroupEInv.takeResource {s own : State} (hs : GroupEInv s) (hown : GroupEInv own) (x : Resource) :
    GroupEInv (own.takeResource s x) := by
  cases x with
  | e j => exact hs.setEReg j (hown.groupE j)
  | r j => exact hs.congr rfl rfl rfl hs.groupE
  | f j => exact hs.congr rfl rfl rfl hs.groupE
  | fprc => exact hs
  | mem => exact hs.congr rfl rfl rfl hs.groupE

theorem GroupEInv.takeLane {s : State} (hs : GroupEInv s) (own : State) (i : Nat) :
    GroupEInv (own.takeLane s i) := by
  unfold State.takeLane
  split
  · exact hs
  · exact hs.congr rfl rfl rfl hs.groupE

theorem GroupEInv.resync {s : State} (hs : GroupEInv s) (n : Nat) : GroupEInv (s.resync n) := by
  rcases s.resync_cases n with ⟨-, hr⟩ | ⟨-, hr⟩
  · rw [hr]
    exact hs.raise _
  · rw [hr]
    exact hs.congr rfl rfl rfl hs.groupE

theorem GroupEInv.group {s : State} {slots : List Slot} {results : List (Slot × State)} (hs : GroupEInv s)
    (hrun : s.runSlots slots = .next (.ok results)) (n : Nat) :
    GroupEInv ((results.foldl State.applyResult s).resync n) := by
  have hown : ∀ result ∈ results, GroupEInv result.2 := fun result hr =>
    have hissue : GroupEInv (s.withIssue result.1.issue) := hs.congr rfl rfl rfl hs.groupE
    exec_keeps_groupEInv hissue (State.runSlots_mem hrun result hr)
  exact (State.foldl_applyResult_keeps GroupEInv hs (fun result hr _ x hu => hu.takeResource (hown result hr) x)
    fun result _ _ i hu => hu.takeLane result.2 i).resync n

/-- Seeding masks every half of group E (R253). -/
theorem GroupEInv.seed {s : State} (hs : GroupEInv s) : GroupEInv s.seedRegisters.startDispatch := by
  refine hs.congr rfl rfl rfl fun k half => ?_
  simp only [State.eReg, State.startDispatch, State.seedRegisters, Bank4.get_ofFn, FReg.half_ofHalves]
  exact isNonNegative_of_isPositiveNormal (isPositiveNormal_maskE _ (hs.masks half))

/-- The decoder gives the masks and group A their shapes and leaves group E (R173, R176). -/
theorem GroupEInv.decodeSeeds {s : State} (hs : GroupEInv s) : GroupEInv s.decodeSeeds where
  masks half := by cases half <;> exact isExponentMask_exponentMask _
  groupA k half := by
    simp only [State.aReg, State.decodeSeeds, Bank4.get_ofFn]
    cases half <;> exact isSmallPositive_smallPositiveFloat _
  groupE := hs.groupE

/-- A hash starts with the masks of 0, group A at 1.0 and group E at 0 (log 3). -/
theorem State.startHash_groupEInv (s : State) (m : Memory) (queue : List HostCmd) :
    GroupEInv (s.startHash m queue) where
  masks half := by
    have hmask : isExponentMask 0x3000000000000000 = true := by decide
    cases half <;> exact hmask
  groupA k half := by fin_cases k <;> cases half <;> rfl
  groupE k half := by fin_cases k <;> cases half <;> rfl

/-- Settles O48: group E is written by a hash's start, a seeding and the words of a group alone. -/
theorem stepKeepsGroupEInv : Obligations.StepKeepsGroupEInv := by
  intro s t h hstep
  cases step_effect hstep with
  | startHash m queue _ eq => exact eq ▸ s.startHash_groupEInv m queue
  | decode eq =>
    subst eq
    exact h.decodeSeeds.congr rfl rfl rfl h.decodeSeeds.groupE
  | seed _ _ eq => exact eq ▸ h.seed
  | group _ _ _ _ _ ran eq => exact eq ▸ h.group ran _
  | writeback _ _ eq =>
    rw [eq, State.endRound_writtenBack]
    exact h.congr rfl rfl rfl h.groupE
  | fault _ eq | initScratchpad _ _ _ eq | startCompile _ _ _ eq | startBatch _ _ _ _ _ _ _ eq | pass1 _ _ eq
  | pass2 _ _ _ _ _ eq | emit _ _ _ eq | dispatchEnd _ _ _ eq =>
    subst eq
    exact h.congr rfl rfl rfl h.groupE

end Sys2Proof.Machine
end

section
/-! SUPPORT. O52, the VM-state buffer. Each part of the buffer is a list of words laid out byte by byte; one lemma per
word size says where a word's byte stands, and the fields of the control block are read off its list. -/

namespace Sys2Proof.Machine

/-! ### Words laid out byte by byte (R84) -/

/-- Byte `b` of a 64-bit word is its bits from `8b` up. -/
theorem word64Byte_eq_extractLsb' (v : Word64) (b : Nat) : word64Byte v b = v.extractLsb' (8 * b) 8 := by
  rw [word64Byte, BitVec.extractLsb', Nat.shiftRight_eq_div_pow]

theorem getElem?_word64Bytes (v : Word64) {b : Nat} (hb : b < 8) :
    (word64Bytes v)[b]? = some (v.extractLsb' (8 * b) 8) := by
  rw [word64Bytes, List.getElem?_map, List.getElem?_range hb, Option.map_some, word64Byte_eq_extractLsb']

theorem length_word64Bytes (v : Word64) : (word64Bytes v).length = 8 := by simp [word64Bytes]

theorem getElem?_word32Bytes (v : Word32) {b : Nat} (hb : b < 4) :
    (word32Bytes v)[b]? = some (v.extractLsb' (8 * b) 8) := by
  rw [BitVec.extractLsb', Nat.shiftRight_eq_div_pow]
  interval_cases b
  · rw [Nat.mul_zero, Nat.pow_zero, Nat.div_one]
    rfl
  all_goals rfl

/-- Byte `b` of word `k` of a list of 64-bit words stands at `8k + b`. -/
theorem getElem?_flatten_word64Bytes (words : List Word64) (k : Nat) {b : Nat} (hb : b < 8) :
    (words.map word64Bytes).flatten[8 * k + b]? = words[k]?.map fun v => v.extractLsb' (8 * b) 8 := by
  induction words generalizing k with
  | nil => simp
  | cons v rest ih =>
    rw [List.map_cons, List.flatten_cons]
    cases k with
    | zero =>
      rw [List.getElem?_append_left (by rw [length_word64Bytes]; omega), Nat.mul_zero, Nat.zero_add,
        getElem?_word64Bytes v hb]
      rfl
    | succ k =>
      rw [List.getElem?_append_right (by rw [length_word64Bytes]; omega), length_word64Bytes,
        show 8 * (k + 1) + b - 8 = 8 * k + b by omega, ih, List.getElem?_cons_succ]

/-- Byte `b` of word `k` of a list of 32-bit words stands at `4k + b`. -/
theorem word32ListByte_eq {words : List Word32} {k b : Nat} {v : Word32} (hb : b < 4) (hv : words[k]? = some v) :
    word32ListByte words (4 * k + b) = some (v.extractLsb' (8 * b) 8) := by
  rw [word32ListByte, show (4 * k + b) / 4 = k by omega, show (4 * k + b) % 4 = b by omega, hv, Option.map_some,
    BitVec.extractLsb', Nat.shiftRight_eq_div_pow]

/-! ### The parts of the buffer (R38, R97, R98) -/

/-- The words of the register region, in order (R38). -/
def State.regionWords (s : State) : List Word64 :=
  indices8.map s.reg ++ (indices4.map fun k => [(s.fReg k).lo, (s.fReg k).hi]).flatten
    ++ (indices4.map fun k => [(s.eReg k).lo, (s.eReg k).hi]).flatten
    ++ (indices4.map fun k => [(s.aReg k).lo, (s.aReg k).hi]).flatten

/-- The final output is the region's words of `r`, `f` and `e` (R38, R270). -/
theorem State.finalOutput_eq (s : State) :
    s.finalOutput =
      ((indices8.map s.reg ++ (indices4.map fun k => [(s.fReg k).lo, (s.fReg k).hi]).flatten
        ++ (indices4.map fun k => [(s.eReg k).lo, (s.eReg k).hi]).flatten).map word64Bytes).flatten := rfl

theorem State.regionBytes_eq (s : State) : s.regionBytes = (s.regionWords.map word64Bytes).flatten := by
  simp [State.regionBytes, State.finalOutput_eq, State.regionWords, indices4]

/-- Byte `b` of the register region's word `k`. -/
theorem State.vmByte_region (s : State) {off k b : Nat} {v : Word64} (hoff : off = 8 * k + b) (hb : b < 8)
    (hk : k < 32) (hv : s.regionWords[k]? = some v) : s.vmByte off = some (v.extractLsb' (8 * b) 8) := by
  rw [hoff, State.vmByte, if_pos (by omega), State.regionBytes_eq, getElem?_flatten_word64Bytes _ _ hb, hv,
    Option.map_some]

theorem State.regionWords_r (s : State) (k : Fin 8) : s.regionWords[k.val]? = some (s.reg k) := by
  fin_cases k <;> rfl

theorem State.regionWords_f (s : State) (k : Fin 4) :
    s.regionWords[8 + 2 * k.val]? = some (s.fReg k).lo ∧ s.regionWords[9 + 2 * k.val]? = some (s.fReg k).hi := by
  fin_cases k <;> exact ⟨rfl, rfl⟩

theorem State.regionWords_e (s : State) (k : Fin 4) :
    s.regionWords[16 + 2 * k.val]? = some (s.eReg k).lo ∧ s.regionWords[17 + 2 * k.val]? = some (s.eReg k).hi := by
  fin_cases k <;> exact ⟨rfl, rfl⟩

theorem State.regionWords_a (s : State) (k : Fin 4) :
    s.regionWords[24 + 2 * k.val]? = some (s.aReg k).lo ∧ s.regionWords[25 + 2 * k.val]? = some (s.aReg k).hi := by
  fin_cases k <;> exact ⟨rfl, rfl⟩

theorem State.vmByte_imm (s : State) {k b : Nat} {v : Word32} (hb : b < 4) (hk : k < 192) (hv : s.imm[k]? = some v) :
    s.vmByte (256 + 4 * k + b) = some (v.extractLsb' (8 * b) 8) := by
  rw [State.vmByte, if_neg (by omega), if_pos (by omega), show 256 + 4 * k + b - 256 = 4 * k + b by omega,
    word32ListByte_eq hb hv]

theorem State.vmByte_prog (s : State) {k b : Nat} {v : Word32} (hb : b < 4) (hk : k < 256)
    (hv : s.prog[k]? = some v) : s.vmByte (1024 + 4 * k + b) = some (v.extractLsb' (8 * b) 8) := by
  rw [State.vmByte, if_neg (by omega), if_neg (by omega), if_pos (by omega),
    show 1024 + 4 * k + b - 1024 = 4 * k + b by omega, word32ListByte_eq hb hv]

theorem State.vmByte_control (s : State) (off : Nat) : s.vmByte (2048 + off) = (s.controlBytes[off]?).getD none := by
  rw [State.vmByte, if_neg (by omega), if_neg (by omega), if_neg (by omega), Nat.add_sub_cancel_left]

/-- Byte `b` of a field of the control block whose bytes begin `start` bytes into it. -/
theorem State.vmByte_controlField (s : State) (start : Nat) (bytes : List Byte) (b : Nat) {v : Byte}
    (hfield : (s.controlBytes.drop start).take bytes.length = bytes.map some) (hv : bytes[b]? = some v) :
    s.vmByte (2048 + start + b) = some v := by
  obtain ⟨hb, -⟩ := List.getElem?_eq_some_iff.mp hv
  have hbyte : s.controlBytes[start + b]? = some (some v) := by
    rw [← List.getElem?_drop, ← List.getElem?_take_of_lt hb, hfield, List.getElem?_map, hv, Option.map_some]
  rw [Nat.add_assoc, State.vmByte_control, hbyte, Option.getD_some]

theorem State.vmByte_controlWord32 (s : State) (start : Nat) {v : Word32} {b : Nat} (hb : b < 4)
    (hfield : (s.controlBytes.drop start).take 4 = (word32Bytes v).map some) :
    s.vmByte (2048 + start + b) = some (v.extractLsb' (8 * b) 8) :=
  s.vmByte_controlField start (word32Bytes v) b hfield (getElem?_word32Bytes v hb)

theorem State.vmByte_controlWord64 (s : State) (start : Nat) {v : Word64} {b : Nat} (hb : b < 8)
    (hfield : (s.controlBytes.drop start).take 8 = (word64Bytes v).map some) :
    s.vmByte (2048 + start + b) = some (v.extractLsb' (8 * b) 8) :=
  s.vmByte_controlField start (word64Bytes v) b (by rwa [length_word64Bytes]) (getElem?_word64Bytes v hb)

/-- The selectors stand as byte offsets of their registers (R98). -/
theorem State.vmByte_readReg (s : State) (k : Fin 4) :
    s.vmByte (2056 + k.val) = some (BitVec.ofNat 8 (8 * (s.readReg.get k).val)) := by
  refine s.vmByte_controlField 8 (indices4.map fun k => BitVec.ofNat 8 (8 * (s.readReg.get k).val)) k.val rfl ?_
  fin_cases k <;> rfl

/-- `prog_len` stands as two bytes (R98). -/
theorem State.vmByte_progLen (s : State) :
    s.vmByte 2062 = some (BitVec.ofNat 8 s.progLen) ∧ s.vmByte 2063 = some (BitVec.ofNat 8 (s.progLen / 256)) :=
  ⟨s.vmByte_controlField 14 [_] 0 rfl rfl, s.vmByte_controlField 15 [_] 0 rfl rfl⟩

/-- The control block ends at byte 2096. -/
theorem State.length_controlBytes (s : State) : s.controlBytes.length = 48 := rfl

theorem State.vmByte_past (s : State) {off : Nat} (h : 2096 ≤ off) : s.vmByte off = none := by
  obtain ⟨k, rfl⟩ := Nat.exists_eq_add_of_le (show 2048 ≤ off by omega)
  rw [State.vmByte_control, List.getElem?_eq_none (by rw [State.length_controlBytes]; omega), Option.getD_none]

/-! ### The layout -/

/-- The two words of a floating register stand at its offset and 8 above it (R38). -/
theorem State.vmByte_regionPair (s : State) {base b : Nat} {x : FReg} (k : Fin 4) (hb : b < 8) (hbase : base ≤ 24)
    (hx : s.regionWords[base + 2 * k.val]? = some x.lo ∧ s.regionWords[base + 1 + 2 * k.val]? = some x.hi) :
    s.vmByte (8 * base + 16 * k.val + b) = some (x.lo.extractLsb' (8 * b) 8) ∧
      s.vmByte (8 * base + 16 * k.val + 8 + b) = some (x.hi.extractLsb' (8 * b) 8) := by
  obtain ⟨hlo, hhi⟩ := hx
  exact ⟨s.vmByte_region (by omega) hb (by omega) hlo, s.vmByte_region (by omega) hb (by omega) hhi⟩

/-- Settles O52: the register region word by word, the two buffers entry by entry, the control block field by field. -/
theorem vmStateLayout : Obligations.VmStateLayout := by
  intro s b hb
  refine ⟨fun k => s.vmByte_region rfl hb (by omega) (s.regionWords_r k), fun k => ?_, fun hb4 => ?_,
    s.vmByte_controlField 12 [_] 0 rfl rfl, s.vmByte_control 13, fun _ => s.vmByte_progLen,
    s.vmByte_controlWord64 16 hb rfl, s.vmByte_controlWord64 24 hb rfl, s.vmByte_controlWord64 32 hb rfl,
    fun off => s.vmByte_past⟩
  · obtain ⟨hflo, hfhi⟩ := s.vmByte_regionPair k hb (by decide) (s.regionWords_f k)
    obtain ⟨helo, hehi⟩ := s.vmByte_regionPair k hb (by decide) (s.regionWords_e k)
    obtain ⟨halo, hahi⟩ := s.vmByte_regionPair k hb (by decide) (s.regionWords_a k)
    exact ⟨hflo, hfhi, helo, hehi, halo, hahi, s.vmByte_readReg k⟩
  · exact ⟨fun k v hk hv => s.vmByte_imm hb4 hk hv, fun k v hk hv => s.vmByte_prog hb4 hk hv,
      s.vmByte_controlWord32 0 hb4 rfl, s.vmByte_controlWord32 4 hb4 rfl, s.vmByte_controlWord32 40 hb4 rfl,
      s.vmByte_controlWord32 44 hb4 rfl⟩

end Sys2Proof.Machine
end

section
/-! SUPPORT. What one word can do to the scratchpad and to the fault record, said once, and O44: the memories. A store
of ISTORE lies inside the scratchpad by its window mask, those of a write-back by the rows of `BatchInv`. -/

namespace Sys2Proof.Machine

/-! ### What one word does to memory and to the record (R387, R410) -/

/-- A record of something else than a dataset read past the dataset's end. -/
def FaultRecord.OutsideDataset (rec : FaultRecord) : Prop := ∀ round addr, rec ≠ .datasetRange round addr

/-- What executing a word does to the scratchpad and to the fault record: it faults, and not for the dataset; it
stores one word; or it leaves both. -/
inductive WordEffect (s t : State) : Prop
  | fault (rec : FaultRecord) (eq : t = s.raise rec) (record : rec.OutsideDataset)
  | store (w : Fields) (eq : t = s.spWrite (s.storeAddr w) (s.reg w.src))
  | neither (scratch : t.scratch = s.scratch) (fault : t.fault = s.fault)

theorem State.executing_effect {s t : State} {i : Instr} {places : List Location}
    {effect : Host.Outcome State Fault Refusal} (h : s.executing i places effect = .next t)
    (heffect : ∀ u, effect = .next u → WordEffect s u) : WordEffect s t := by
  rcases State.executing_cases h with ⟨-, ht⟩ | ⟨-, l, -, -, ht⟩ | ⟨-, -, he⟩
  · exact .fault _ ht nofun
  · exact .fault _ ht nofun
  · exact heffect t he

/-- ISTORE alone stores, and no word reads the dataset. -/
theorem exec_effect {i : Instr} {s t : State} (h : exec i s = .next t) : WordEffect s t := by
  cases i with
  | istore w =>
    refine State.executing_effect h fun u hu => ?_
    cases hu
    exact .store w rfl
  | cbranch w =>
    refine State.executing_effect h fun u hu => ?_
    split at hu
    · split at hu
      · simp only [Host.Outcome.next.injEq] at hu
        subst hu
        split
        · rw [State.requestJump_only_lanes]
          exact .neither rfl rfl
        · exact .neither rfl rfl
      · exact .fault _ (Host.Outcome.next.inj hu).symm nofun
    · exact .fault _ (Host.Outcome.next.inj hu).symm nofun
  | cfround w =>
    refine State.executing_effect h fun u hu => ?_
    simp only [Host.Outcome.next.injEq] at hu
    rw [← hu, State.requestRounding_only_lanes]
    exact .neither rfl rfl
  | fswapR w =>
    simp only [exec, execFswapR] at h
    split at h <;>
    · refine State.executing_effect h fun u hu => ?_
      cases hu
      exact .neither rfl rfl
  | _ =>
    refine State.executing_effect h fun u hu => ?_
    cases hu
    exact .neither rfl rfl

/-! ### Stores inside the scratchpad (R81, R86) -/

theorem Memory.fits_iff (size : Nat) (m : Memory) : m.fits size = true ↔ m.wf = true ∧ m.inside size = true :=
  Bool.and_eq_true_iff

theorem Memory.fits_writeWord {size a : Nat} {m : Memory} (v : Word64) (h : a + 8 ≤ size)
    (hm : m.fits size = true) : (m.writeWord a v).fits size = true := by
  rw [Memory.fits_iff] at hm ⊢
  obtain ⟨hwf, hinside⟩ := hm
  exact ⟨m.wf_writeWord a v hwf, m.inside_writeWord v h hinside⟩

/-- A word at an effective address ends inside the scratchpad, whatever its window. -/
theorem effAddr_inside (base : Word64) (imm : Word32) (window : Loc) :
    effAddr base imm window + 8 ≤ Config.l3Size := by
  have hmask : (windowMask window).toNat + 8 ≤ Config.l3Size := by cases window <;> decide
  have hle : effAddr base imm window ≤ (windowMask window).toNat := by
    rw [effAddr, BitVec.toNat_and]
    exact Nat.and_le_right
  omega

/-- A row of the scratchpad ends inside it. -/
theorem row_inside {a : Nat} (h : a % 64 = 0 ∧ a < Config.l3Size) : a + 64 ≤ Config.l3Size := by
  obtain ⟨haligned, hbelow⟩ := h
  simp only [Config.l3Size] at hbelow ⊢
  omega

/-- The scratchpad is canonical and inside its buffer. -/
abbrev State.ScratchFits (s : State) : Prop := s.scratch.fits Config.l3Size = true

theorem State.ScratchFits.spWrite {s : State} (h : s.ScratchFits) {a : Nat} (v : Word64)
    (ha : a + 8 ≤ Config.l3Size) : (s.spWrite a v).ScratchFits :=
  Memory.fits_writeWord v ha h

theorem State.ScratchFits.raise {s : State} (h : s.ScratchFits) (rec : FaultRecord) : (s.raise rec).ScratchFits := by
  rw [s.raise_only_fault rec]
  exact h

/-! ### A group keeps the scratchpad (R258) -/

theorem State.ScratchFits.exec {s t : State} {i : Instr} (hs : s.ScratchFits) (h : exec i s = .next t) :
    t.ScratchFits := by
  cases exec_effect h with
  | fault rec eq _ => exact eq ▸ hs.raise rec
  | store w eq => exact eq ▸ hs.spWrite _ (effAddr_inside _ _ _)
  | neither scratch _ =>
    unfold State.ScratchFits
    rwa [scratch]

theorem State.ScratchFits.takeResource {s own : State} (hs : s.ScratchFits) (hown : own.ScratchFits) (x : Resource) :
    (own.takeResource s x).ScratchFits := by
  cases x with
  | mem => exact hown
  | r j | f j | e j | fprc => exact hs

theorem State.ScratchFits.takeLane {s : State} (hs : s.ScratchFits) (own : State) (i : Nat) :
    (own.takeLane s i).ScratchFits := by
  unfold State.takeLane
  split <;> exact hs

theorem State.ScratchFits.resync {s : State} (hs : s.ScratchFits) (n : Nat) : (s.resync n).ScratchFits := by
  rcases s.resync_cases n with ⟨-, hr⟩ | ⟨-, hr⟩
  · exact hr ▸ hs.raise _
  · rw [hr]
    exact hs

theorem State.ScratchFits.group {s : State} {slots : List Slot} {results : List (Slot × State)} (hs : s.ScratchFits)
    (hrun : s.runSlots slots = .next (.ok results)) (n : Nat) :
    ((results.foldl State.applyResult s).resync n).ScratchFits := by
  have hown : ∀ result ∈ results, result.2.ScratchFits := fun result hr =>
    (show (s.withIssue result.1.issue).ScratchFits from hs).exec (State.runSlots_mem hrun result hr)
  exact (State.foldl_applyResult_keeps State.ScratchFits hs (fun result hr _ x hu => hu.takeResource (hown result hr) x)
    fun result _ _ i hu => hu.takeLane result.2 i).resync n

/-! ### A write-back keeps the scratchpad (R264, R266) -/

theorem State.ScratchFits.storeRegs {s : State} (hs : s.ScratchFits) (hrow : s.spAddr1.toNat + 64 ≤ Config.l3Size) :
    s.storeRegs.ScratchFits :=
  List.foldlRecOn _ _ hs fun _ ht _ _ => ht.spWrite _ (by omega)

theorem State.ScratchFits.storeF {s : State} (hs : s.ScratchFits) (hrow : s.spAddr0.toNat + 64 ≤ Config.l3Size) :
    s.storeF.ScratchFits :=
  List.foldlRecOn _ _ hs fun _ ht _ _ => (ht.spWrite _ (by omega)).spWrite _ (by omega)

theorem State.ScratchFits.writtenBack {s : State} (hs : s.ScratchFits)
    (hrow0 : s.spAddr0.toNat + 64 ≤ Config.l3Size) (hrow1 : s.spAddr1.toNat + 64 ≤ Config.l3Size) :
    s.writtenBack.ScratchFits := by
  refine State.ScratchFits.storeF (State.ScratchFits.storeRegs hs hrow1) ?_
  rw [State.storeRegs_only_scratch]
  exact hrow0

theorem State.ScratchFits.endRound {s : State} (hs : s.ScratchFits) : s.endRound.ScratchFits := hs

/-! ### Every step -/

/-- A state whose scratchpad fits, with the other memories of one before. -/
theorem MemoryInv.congr {s t : State} (h : MemoryInv s) (scratch : t.scratch.fits Config.l3Size = true)
    (entropy : t.entropy = s.entropy) (dataset : t.dataset = s.dataset) : MemoryInv t where
  scratch := scratch
  entropy := entropy ▸ h.entropy
  dataset := dataset ▸ h.dataset

/-- Settles O44: the host's memories are checked when they are taken, and beside the host only a group's stores and a
write-back write a memory, both inside the scratchpad. -/
theorem stepKeepsMemoryInv : Obligations.StepKeepsMemoryInv := by
  intro s t hbatch h hstep
  cases step_effect hstep with
  | startHash m queue fits eq =>
    subst eq
    exact { scratch := fits, entropy := rfl, dataset := h.dataset }
  | initScratchpad m queue fits eq =>
    subst eq
    exact h.congr fits rfl rfl
  | startCompile m queue fits eq =>
    subst eq
    exact { scratch := h.scratch, entropy := fits, dataset := h.dataset }
  | group slots results _ _ _ ran eq frame =>
    have hscratch : t.ScratchFits := eq ▸ State.ScratchFits.group h.scratch ran slots.length
    rw [frame]
    exact h.congr hscratch rfl rfl
  | writeback agent phase eq =>
    have hround : s.inRound := ⟨agent, .inr phase⟩
    have hscratch : s.writtenBack.ScratchFits :=
      State.ScratchFits.writtenBack h.scratch (row_inside (hbatch.addr0 hround)) (row_inside (hbatch.addr1 hround))
    subst eq
    exact h.congr hscratch.endRound (by rw [State.endRound_writtenBack]) (by rw [State.endRound_writtenBack])
  | fault _ eq | startBatch _ _ _ _ _ _ _ eq | decode eq | pass1 _ _ eq | pass2 _ _ _ _ _ eq | emit _ _ _ eq
  | seed _ _ eq | dispatchEnd _ _ _ eq =>
    subst eq
    exact h.congr h.scratch rfl rfl

end Sys2Proof.Machine
end

section
/-! SUPPORT. O38, the dataset reads of a write-back (R96). With the scalars in range the round's item ends inside the
dataset, and no other part of a step records DATASET_RANGE; so what each of them records is said first. -/

namespace Sys2Proof.Machine

open Sys2Proof.Config (Params)

/-! ### A state without a record of the dataset -/

/-- The fault record, if set, is not DATASET_RANGE. -/
def State.FaultOutsideDataset (s : State) : Prop := ∀ rec, s.fault = some rec → rec.OutsideDataset

theorem State.FaultOutsideDataset.of_none {s : State} (h : s.fault = none) : s.FaultOutsideDataset := by
  simp [State.FaultOutsideDataset, h]

theorem State.FaultOutsideDataset.raise {s : State} {rec : FaultRecord} (hs : s.fault = none)
    (hrec : rec.OutsideDataset) : (s.raise rec).FaultOutsideDataset := by
  rw [State.raise_of_none _ _ hs]
  intro rec' h
  cases h
  exact hrec

theorem exec_faultOutsideDataset {i : Instr} {s t : State} (hf : s.fault = none) (h : exec i s = .next t) :
    t.FaultOutsideDataset := by
  cases exec_effect h with
  | fault rec eq record => exact eq ▸ .raise hf record
  | store w eq => exact .of_none (eq ▸ hf)
  | neither _ fault => exact .of_none (fault.trans hf)

/-! ### What the parts of a step record (R411) -/

theorem State.fetchWord_outsideDataset {s : State} {idx : Nat} {rec : FaultRecord} (h : s.fetchWord idx = .error rec) :
    rec.OutsideDataset := by
  unfold State.fetchWord at h
  split at h
  · cases h
    exact nofun
  · split at h
    · cases h
      exact nofun
    · split at h <;> cases h
      exact nofun

theorem State.fetchRest_outsideDataset {s : State} {nf count j : Nat} {rec : FaultRecord}
    (h : s.fetchRest nf count j = .error rec) : rec.OutsideDataset := by
  induction count generalizing j with
  | zero => cases h
  | succ count ih =>
    simp only [State.fetchRest] at h
    split at h
    · next hword =>
      cases h
      exact State.fetchWord_outsideDataset hword
    · split at h
      · next hrest =>
        cases h
        exact ih hrest
      · cases h

theorem State.fetchGroup_outsideDataset {s : State} {rec : FaultRecord} (h : s.fetchGroup = .error rec) :
    rec.OutsideDataset := by
  unfold State.fetchGroup at h
  split at h
  · next hword =>
    cases h
    exact State.fetchWord_outsideDataset hword
  · split at h
    · split at h
      · split at h
        · next hrest =>
          cases h
          exact State.fetchRest_outsideDataset hrest
        · cases h
      · cases h
        exact nofun
    · cases h
      exact nofun

/-- The record a group's words stop at is one that a word raised. -/
theorem State.runSlots_outsideDataset {s : State} {slots : List Slot} {rec : FaultRecord} (hf : s.fault = none)
    (h : s.runSlots slots = .next (.error rec)) : rec.OutsideDataset := by
  induction slots with
  | nil => cases h
  | cons q rest ih =>
    simp only [State.runSlots] at h
    split at h
    · cases h
    · cases h
    · next t ht =>
      split at h
      · next raised hraised =>
        cases h
        have hissue : (s.withIssue q.issue).fault = none := hf
        exact exec_faultOutsideDataset hissue ht _ hraised
      · split at h
        · cases h
        · cases h
        · next hrest =>
          cases h
          exact ih hrest
        · cases h

theorem Compiler.pass2_outsideDataset {p : Params} {c : Compiler} {imm : List Word32} {k : Nat} {raw : RawInstr}
    {rec : FaultRecord} (h : c.pass2 p imm k raw = .error rec) : rec.OutsideDataset := by
  unfold Compiler.pass2 at h
  simp only at h
  split at h
  · cases h
    exact nofun
  · split at h <;> cases h
    exact nofun

theorem State.emitProgram_outsideDataset {s : State} {rec : FaultRecord} (h : s.emitProgram = .error rec) :
    rec.OutsideDataset := by
  unfold State.emitProgram at h
  simp only at h
  split at h <;> cases h
  exact nofun

/-! ### The agents' steps (R269, R429) -/

theorem State.FaultOutsideDataset.hostStep {s t : State} (hf : s.fault = none) (h : s.hostStep = .next t) :
    t.FaultOutsideDataset := by
  obtain ⟨cmd, queue, -, hcmd⟩ := State.hostStep_cases h
  rcases State.takeCmd_cases hcmd with ⟨m, -, -, rfl⟩ | ⟨m, -, -, rfl⟩ | ⟨m, -, -, rfl⟩ |
    ⟨k, first, last, -, -, -, -, rfl⟩
  · exact .of_none rfl
  · exact .of_none hf
  · exact .of_none hf
  · exact .of_none hf

theorem State.FaultOutsideDataset.compileStep {s t : State} {stage : CompileStage} (hf : s.fault = none)
    (h : s.compileStep stage = .next t) : t.FaultOutsideDataset := by
  rcases State.compileStep_cases h with ⟨-, rfl⟩ | ⟨i, raw, -, -, rfl⟩ | ⟨i, raw, rec, -, -, hpass, rfl⟩ |
    ⟨i, raw, c, imm, -, -, -, rfl⟩ | ⟨rec, -, hemit, rfl⟩ | ⟨prog, imm, -, -, rfl⟩
  · exact .of_none hf
  · exact .of_none hf
  · exact .raise hf (Compiler.pass2_outsideDataset hpass)
  · exact .of_none hf
  · exact .raise hf (State.emitProgram_outsideDataset hemit)
  · exact .of_none hf

theorem State.FaultOutsideDataset.resync {s : State} (hf : s.fault = none) (n : Nat) :
    (s.resync n).FaultOutsideDataset := by
  rcases s.resync_cases n with ⟨-, hr⟩ | ⟨-, hr⟩
  · exact hr ▸ .raise hf nofun
  · rw [hr]
    exact .of_none hf

/-- Merging the words' results sets no record. -/
theorem State.groupEffect_fault (s : State) (results : List (Slot × State)) :
    (results.foldl State.applyResult s).fault = s.fault := by
  refine State.foldl_applyResult_keeps (fun u => u.fault = s.fault) rfl (fun result _ u x hu => ?_)
    fun result _ u i hu => ?_
  · cases x <;> exact hu
  · unfold State.takeLane
    split <;> exact hu

theorem State.FaultOutsideDataset.dispatchStep {s t : State} (hf : s.fault = none) (h : s.dispatchStep = .next t) :
    t.FaultOutsideDataset := by
  rcases State.dispatchStep_cases h with ⟨-, hg⟩ | ⟨-, rfl⟩ | ⟨-, rfl⟩
  · rcases State.groupStep_cases hg with ⟨rec, hfetch, rfl⟩ | ⟨slots, rec, -, hrun, rfl⟩ |
      ⟨slots, results, q, p, x, -, -, -, rfl⟩ | ⟨slots, results, -, -, -, rfl⟩
    · exact .raise hf (State.fetchGroup_outsideDataset hfetch)
    · exact .raise hf (State.runSlots_outsideDataset hf hrun)
    · exact .raise hf nofun
    · exact .resync ((s.groupEffect_fault results).trans hf) _
  · exact .of_none hf
  · exact .raise hf nofun

/-! ### The round's dataset item (R96) -/

/-- With `ma` and the offset in range the item's last word ends inside the dataset. -/
theorem AddressInv.dsAddr_inside {s : State} (h : AddressInv s) (k : Fin 8) :
    s.dsAddr k.val + 8 ≤ s.params.datasetSize := by
  obtain ⟨hma, hbelow, -, hoffset, -⟩ := h
  simp only [State.dsAddr, Config.Params.datasetSize, Config.datasetBaseSize]
  omega

theorem AddressInv.dsPast {s : State} (h : AddressInv s) : s.dsPast = none := by
  simp only [State.dsPast, List.find?_map, Option.map_eq_none_iff, List.find?_eq_none, Function.comp_apply,
    decide_eq_true_eq, Nat.not_lt]
  exact fun k _ => h.dsAddr_inside k

/-- The first word past the dataset is the one whose predecessors end inside it. -/
theorem State.dsPast_eq_some {s : State} {k : Nat} (hk : k < 8) (hpast : s.params.datasetSize < s.dsAddr k + 8)
    (hbefore : ∀ j, j < k → s.dsAddr j + 8 ≤ s.params.datasetSize) : s.dsPast = some (s.dsAddr k) := by
  have hindices : indices8 = List.finRange 8 := by decide
  rw [State.dsPast, hindices, List.find?_eq_some_iff_getElem]
  refine ⟨decide_eq_true hpast, k, by simpa using hk, by simp, fun j hj => ?_⟩
  simpa using hbefore j hj

theorem State.FaultOutsideDataset.writebackStep {s t : State} (hf : s.fault = none) (h : AddressInv s)
    (hstep : s.writebackStep = .next t) : t.FaultOutsideDataset := by
  rcases State.writebackStep_cases hstep with ⟨l, -, -, rfl⟩ | ⟨a, hpast, -⟩ | ⟨-, -, rfl⟩
  · exact .raise hf nofun
  · rw [h.dsPast] at hpast
    cases hpast
  · rw [State.endRound_writtenBack]
    exact .of_none hf

/-- With the scalars in range no step records DATASET_RANGE. -/
theorem step_faultOutsideDataset {s t : State} (h : AddressInv s) (hstep : step s = .next t) :
    t.FaultOutsideDataset := by
  obtain ⟨-, hf, hs⟩ := step_cases hstep
  rcases hs with ⟨-, h1⟩ | ⟨stage, -, h1⟩ | ⟨-, -, h1⟩ | ⟨-, -, h1⟩ | ⟨-, -, h1⟩ | ⟨-, -, h1⟩
  · exact .hostStep hf h1
  · exact .compileStep hf h1
  · rcases State.seedStep_cases h1 with ⟨l, -, -, rfl⟩ | ⟨-, rfl⟩
    · exact .raise hf nofun
    · exact .of_none hf
  · exact .dispatchStep hf h1
  · exact .writebackStep hf h h1
  · exact .hostStep hf h1

/-! ### The write-back's checks (R413, R414) -/

/-- The places of the compile engine's two buffers, which have a value entry by entry (R46, R47). -/
def Location.inBuffer : Location → Bool
  | .imm _ | .prog _ => true
  | _ => false

/-- A decoded and seeded state has a value everywhere but in the two buffers (R413). -/
theorem State.isWritten_of_seeded {s : State} (hd : s.decoded = true) (hs : s.seeded = true) {l : Location}
    (hl : l.inBuffer = false) : s.isWritten l = true := by
  cases l with
  | imm k | prog k => cases hl
  | f j h | e j h => exact hs
  | r j | a j h | eMask h | readReg j | ma | mx | datasetOffset => exact hd

theorem writebackPlaces_not_inBuffer : ∀ l ∈ writebackPlaces, l.inBuffer = false := by decide

/-- A write-back of a seeded round gets past its reads; its item's range is what is checked next (R414). -/
theorem State.writebackStep_of_dsPast {s : State} {a : Nat} (hd : s.decoded = true) (hs : s.seeded = true)
    (ha : s.dsPast = some a) : s.writebackStep = .next (s.raise (.datasetRange s.round a)) := by
  have hwritten : s.firstUnwritten writebackPlaces = none := (s.firstUnwritten_eq_none _).mpr fun l hl =>
    State.isWritten_of_seeded hd hs (writebackPlaces_not_inBuffer l hl)
  simp only [State.writebackStep, hwritten, ha]

/-- In WRITEBACK the step is the write-back (R269). -/
theorem step_of_writeback {s : State} (hok : s.params.ok = true) (hf : s.fault = none) (ha : s.agent = .interpret)
    (hp : s.phase = .writeback) : step s = s.writebackStep := by
  simp only [step, hok, hf, State.agentStep, ha, State.interpretStep, hp, if_true]

/-- Settles O38: the item of scalars in range ends inside the dataset, and a write-back looks at the item's range
before it writes. -/
theorem datasetRange : Obligations.DatasetRange := by
  refine ⟨fun s t r a h hstep hrec => step_faultOutsideDataset h hstep _ hrec r a rfl, ?_⟩
  intro s k hok hf ha hp hd hs hk hpast hbefore
  rw [step_of_writeback hok hf ha hp]
  exact State.writebackStep_of_dsPast hd hs (State.dsPast_eq_some hk hpast hbefore)

end Sys2Proof.Machine
end

section
/-! SUPPORT. Words in memory and effective addresses: O50 and O51. A word is read as the sum of its bytes, so what a
store and a read do is a fact about the digits of a number to base 256; a window mask keeps the bits of an address from
bit 3 up to the window's size. -/

namespace Sys2Proof.Machine

/-! ### A word and its bytes (R13, R84) -/

theorem toNat_append_eq {m n : Nat} (x : BitVec m) (y : BitVec n) : (x ++ y).toNat = x.toNat * 2 ^ n + y.toNat := by
  rw [BitVec.toNat_append, ← Nat.shiftLeft_add_eq_or_of_lt y.isLt, Nat.shiftLeft_eq]

/-- The word at `a` is the sum of its bytes, the lowest address the least significant. -/
theorem Memory.toNat_readWord (m : Memory) (a : Nat) :
    (m.readWord a).toNat = ∑ k ∈ Finset.range 8, (m.read (a + k)).toNat * 2 ^ (8 * k) := by
  simp only [Memory.readWord, toNat_append_eq, Finset.sum_range_succ, Finset.sum_range_zero, Nat.add_zero]
  omega

theorem toNat_word64Byte (v : Word64) (k : Nat) : (word64Byte v k).toNat = v.toNat / 256 ^ k % 256 := by
  rw [word64Byte, BitVec.toNat_ofNat, Nat.pow_mul]

/-- The low `n` digits of a number to base `b` sum to its remainder by `b ^ n`. -/
theorem sum_digits_eq_mod (x b n : Nat) : ∑ k ∈ Finset.range n, x / b ^ k % b * b ^ k = x % b ^ n := by
  induction n with
  | zero => simp [Nat.mod_one]
  | succ n ih => rw [Finset.sum_range_succ, ih, Nat.mod_pow_succ, Nat.mul_comm]

/-- A word whose bytes stand at `a` is the word at `a`. -/
theorem Memory.readWord_of_bytes {m : Memory} {a : Nat} {v : Word64}
    (h : ∀ k < 8, m.read (a + k) = word64Byte v k) : m.readWord a = v := by
  refine BitVec.eq_of_toNat_eq ?_
  calc (m.readWord a).toNat
      = ∑ k ∈ Finset.range 8, (m.read (a + k)).toNat * 2 ^ (8 * k) := m.toNat_readWord a
    _ = ∑ k ∈ Finset.range 8, v.toNat / 256 ^ k % 256 * 256 ^ k :=
        Finset.sum_congr rfl fun k hk => by
          rw [h k (Finset.mem_range.mp hk), toNat_word64Byte, Nat.pow_mul]
    _ = v.toNat % 256 ^ 8 := sum_digits_eq_mod v.toNat 256 8
    _ = v.toNat := Nat.mod_eq_of_lt v.isLt

/-- A stored word reads back. -/
theorem Memory.readWord_writeWord_same {m : Memory} (a : Nat) (v : Word64) (hm : m.wf = true) :
    (m.writeWord a v).readWord a = v :=
  Memory.readWord_of_bytes fun _ hk => m.read_writeBytes_inside a v 8 hk hm

/-- Two memories that read alike on the bytes of a word have the same word there. -/
theorem Memory.readWord_congr {m n : Memory} {a : Nat} (h : ∀ k < 8, m.read (a + k) = n.read (a + k)) :
    m.readWord a = n.readWord a := by
  refine BitVec.eq_of_toNat_eq ?_
  rw [Memory.toNat_readWord, Memory.toNat_readWord]
  exact Finset.sum_congr rfl fun k hk => by rw [h k (Finset.mem_range.mp hk)]

/-- A store leaves every word apart from it. -/
theorem Memory.readWord_writeWord_apart (m : Memory) {a b : Nat} (v : Word64) (h : b + 8 ≤ a ∨ a + 8 ≤ b) :
    (m.writeWord a v).readWord b = m.readWord b :=
  Memory.readWord_congr fun k _ => m.read_writeWord_outside a v (by omega)

/-! ### Canonical memories that read alike -/

theorem Memory.wfFrom_cons {lo : Nat} {c : Host.Cell} {m : Memory} :
    Memory.wfFrom lo (c :: m) = true ↔ lo ≤ c.1 ∧ c.2 ≠ Memory.unlisted ∧ m.wfFrom (c.1 + 1) = true := by
  simp [Memory.wfFrom, and_assoc]

/-- A memory that reads like a canonical one lists nothing before that one's first cell. -/
theorem Memory.le_head_of_read_eq {lo p : Nat} {c : Host.Cell} {m n : Memory}
    (hm : Memory.wfFrom lo (c :: m) = true) (hn : n.wfFrom p = true)
    (h : Memory.read (c :: m) c.1 = n.read c.1) : p ≤ c.1 := by
  obtain ⟨-, hc, -⟩ := Memory.wfFrom_cons.mp hm
  by_contra hlt
  rw [Memory.read_below n hn (Nat.lt_of_not_le hlt), Memory.read_cons, if_pos rfl] at h
  exact hc h

/-- The canonical form is determined by what is read. -/
theorem Memory.eq_of_read_eq {m n : Memory} {lo : Nat} (hm : m.wfFrom lo = true) (hn : n.wfFrom lo = true)
    (h : ∀ a, m.read a = n.read a) : m = n := by
  induction m generalizing n lo with
  | nil =>
    cases n with
    | nil => rfl
    | cons d n =>
      have := Memory.le_head_of_read_eq (p := d.1 + 1) hn rfl (h d.1).symm
      omega
  | cons c m ih =>
    cases n with
    | nil =>
      have := Memory.le_head_of_read_eq (p := c.1 + 1) hm rfl (h c.1)
      omega
    | cons d n =>
      obtain ⟨-, hcb, hm'⟩ := Memory.wfFrom_cons.mp hm
      obtain ⟨-, hdb, hn'⟩ := Memory.wfFrom_cons.mp hn
      have hdc : d.1 ≤ c.1 :=
        Memory.le_head_of_read_eq hm (Memory.wfFrom_cons.mpr ⟨Nat.le_refl _, hdb, hn'⟩) (h c.1)
      have hcd : c.1 ≤ d.1 :=
        Memory.le_head_of_read_eq hn (Memory.wfFrom_cons.mpr ⟨Nat.le_refl _, hcb, hm'⟩) (h d.1).symm
      have haddr : c.1 = d.1 := Nat.le_antisymm hcd hdc
      have hbyte : c.2 = d.2 := by simpa [Memory.read_cons, haddr] using h c.1
      rw [← haddr] at hn'
      have htail : m = n := ih hm' hn' fun a => by
        by_cases ha : c.1 = a
        · rw [Memory.read_below m hm' (by omega), Memory.read_below n hn' (by omega)]
        · simpa [Memory.read_cons, ha, ← haddr] using h a
      rw [Prod.ext haddr hbyte, htail]

/-- Settles O50: reading sums the bytes, a store writes them, and the canonical form holds no more than they say. -/
theorem memoryWords : Obligations.MemoryWords :=
  ⟨Memory.toNat_readWord,
    fun m _ _ v hm => ⟨Memory.readWord_writeWord_same _ v hm, m.readWord_writeWord_apart v⟩,
    fun _ _ => Memory.eq_of_read_eq⟩

/-! ### Masks (R86) -/

/-- A mask of `n` ones above `k` zeros reduces modulo `2 ^ (k + n)` and rounds down to a multiple of `2 ^ k`. -/
theorem and_mask_eq (x n k : Nat) : x &&& (2 ^ n - 1) * 2 ^ k = x % 2 ^ (k + n) / 2 ^ k * 2 ^ k := by
  rw [Nat.pow_add, Nat.mod_mul_right_div_self, ← Nat.and_two_pow_sub_one_eq_mod]
  refine Nat.eq_of_testBit_eq fun i => ?_
  by_cases hi : k ≤ i
  · simp [Nat.testBit_mul_two_pow, Nat.testBit_div_two_pow, hi, Bool.and_comm]
  · simp [Nat.testBit_mul_two_pow, hi]

theorem toNat_and_windowMask (x : Word64) :
    (x &&& windowMask .l1).toNat = x.toNat % 16384 / 8 * 8 ∧
    (x &&& windowMask .l2).toNat = x.toNat % 262144 / 8 * 8 ∧
    (x &&& windowMask .l3).toNat = x.toNat % 2097152 / 8 * 8 := by
  simp only [BitVec.toNat_and]
  exact ⟨and_mask_eq x.toNat 11 3, and_mask_eq x.toNat 15 3, and_mask_eq x.toNat 18 3⟩

theorem toNat_and_rowMask (x : Word32) : (x &&& rowMask).toNat = x.toNat % 2097152 / 64 * 64 := by
  rw [BitVec.toNat_and]
  exact and_mask_eq x.toNat 15 6

theorem effAddrImm_eq (imm : Word32) : effAddrImm imm = imm.toNat % 2097152 / 8 * 8 := by
  obtain ⟨-, -, hl3⟩ := toNat_and_windowMask (imm.setWidth 64)
  rw [effAddrImm, hl3, BitVec.toNat_setWidth_of_le (by decide)]

/-- Settles O51: each window's mask applied to the wrapped sum, the widest to the immediate, and the row mask. -/
theorem effectiveAddresses : Obligations.EffectiveAddresses :=
  ⟨fun base imm => toNat_and_windowMask (base + imm.signExtend 64), effAddrImm_eq, toNat_and_rowMask⟩

end Sys2Proof.Machine
end

section
/-! SUPPORT. O4, the invariants at reset. A reset state is the start of a hash on empty memories, so what a hash's start
establishes holds at reset. -/

namespace Sys2Proof.Machine

theorem reset_eq_startHash : State.reset = State.reset.startHash [] [] := rfl

theorem reset_memoryInv : MemoryInv State.reset := ⟨rfl, rfl, rfl⟩

theorem reset_laneInv : LaneInv State.reset := ⟨rfl, nofun, rfl⟩

theorem reset_capacityInv : CapacityInv State.reset := ⟨Nat.zero_le _, Nat.zero_le _⟩

/-- Outside a compile the compile engine's invariant asks nothing. -/
theorem CompileInv.of_host {s : State} (h : s.agent = .host) : CompileInv s where
  pass1 _ ha := by simp [h] at ha
  pass2 _ ha := by simp [h] at ha
  emit ha := by simp [h] at ha

/-- Settles O4: memories and lists are empty, the host moves next, and the registers are those of a hash's start. -/
theorem resetHasInvariants : Obligations.ResetHasInvariants :=
  ⟨reset_memoryInv, reset_eq_startHash ▸ State.reset.startHash_addressInv [] [], reset_laneInv,
    .of_not_interpret nofun, reset_eq_startHash ▸ State.reset.startHash_groupEInv [] [], reset_capacityInv,
    .of_host rfl⟩

end Sys2Proof.Machine
end

section
/-! SUPPORT. The compiled encoding: O2, O40 and O41. A word is eight digits side by side, the two reserved bits above
them, so its number is the sum of the digits at their places; opcode number and fields name an instruction. -/

namespace Sys2Proof

open Sys2Proof.Laws

/-! ### Opcode numbers (R126) -/

theorem Instr.opcodeNumbering : ∀ i : Instr, OpcodeNumbering.Statement i
  | .iaddRs w => OpcodeNumbering.iaddRs w
  | .iaddM w => OpcodeNumbering.iaddM w
  | .isubR w => OpcodeNumbering.isubR w
  | .isubM w => OpcodeNumbering.isubM w
  | .imulR w => OpcodeNumbering.imulR w
  | .imulM w => OpcodeNumbering.imulM w
  | .imulhR w => OpcodeNumbering.imulhR w
  | .imulhM w => OpcodeNumbering.imulhM w
  | .ismulhR w => OpcodeNumbering.ismulhR w
  | .ismulhM w => OpcodeNumbering.ismulhM w
  | .imulRcp w => OpcodeNumbering.imulRcp w
  | .inegR w => OpcodeNumbering.inegR w
  | .ixorR w => OpcodeNumbering.ixorR w
  | .ixorM w => OpcodeNumbering.ixorM w
  | .irorR w => OpcodeNumbering.irorR w
  | .irolR w => OpcodeNumbering.irolR w
  | .iswapR w => OpcodeNumbering.iswapR w
  | .fswapR w => OpcodeNumbering.fswapR w
  | .faddR w => OpcodeNumbering.faddR w
  | .faddM w => OpcodeNumbering.faddM w
  | .fsubR w => OpcodeNumbering.fsubR w
  | .fsubM w => OpcodeNumbering.fsubM w
  | .fscalR w => OpcodeNumbering.fscalR w
  | .fmulR w => OpcodeNumbering.fmulR w
  | .fdivM w => OpcodeNumbering.fdivM w
  | .fsqrtR w => OpcodeNumbering.fsqrtR w
  | .cbranch w => OpcodeNumbering.cbranch w
  | .cfround w => OpcodeNumbering.cfround w
  | .istore w => OpcodeNumbering.istore w
  | .nop w => OpcodeNumbering.nop w

theorem Instr.opcode_lt (i : Instr) : i.opcode < 30 := i.opcodeNumbering.2

/-- An opcode number and fields name at most one instruction. -/
theorem Instr.ofOpcode_eq_some_iff {op : Nat} {w : Fields} {i : Instr} :
    Instr.ofOpcode op w = some i ↔ i.opcode = op ∧ i.fields = w := by
  constructor
  · intro h
    unfold Instr.ofOpcode at h
    split at h <;> cases h <;> exact ⟨rfl, rfl⟩
  · rintro ⟨rfl, rfl⟩
    exact i.opcodeNumbering.1

/-- The opcode numbers from 30 on are reserved. -/
theorem Instr.ofOpcode_eq_none_iff {op : Nat} {w : Fields} : Instr.ofOpcode op w = none ↔ 30 ≤ op := by
  constructor
  · intro h
    by_contra hlt
    rw [Nat.not_le] at hlt
    interval_cases op <;> cases h
  · intro h
    refine Option.eq_none_iff_forall_ne_some.mpr fun i hi => ?_
    obtain ⟨rfl, -⟩ := Instr.ofOpcode_eq_some_iff.mp hi
    exact absurd i.opcode_lt (Nat.not_lt.mpr h)

/-! ### The decoder's answers (R125, R126, R132) -/

theorem decodeWord_eq_ok_iff {word : Word32} {i : Instr} :
    decodeWord word = .ok i ↔
      bitField word.toNat 30 2 = 0 ∧ i.opcode = bitField word.toNat 18 5 ∧ i.fields = decodeFields word := by
  rw [← Instr.ofOpcode_eq_some_iff]
  unfold decodeWord
  split
  · next h => simp [h]
  · next h =>
    rw [not_not] at h
    split <;> simp_all

/-- A word that does not decode has reserved bits set or a reserved opcode. -/
theorem decodeWord_eq_error_iff {word : Word32} :
    (∃ r, decodeWord word = .error r) ↔ bitField word.toNat 30 2 ≠ 0 ∨ 30 ≤ bitField word.toNat 18 5 := by
  rw [← Instr.ofOpcode_eq_none_iff (w := decodeFields word)]
  unfold decodeWord
  split
  · next h => simp [h]
  · next h =>
    split
    · next hi => simp [h, hi]
    · next hi => simp [hi]

/-! ### The digits of a word (R125) -/

theorem Loc.code_lt (l : Loc) : l.code < 4 := by cases l <;> decide

@[simp] theorem Loc.ofCode_code (l : Loc) : Loc.ofCode l.code = l := by cases l <;> rfl

theorem Loc.code_ofCode {k : Nat} (h : k < 4) : (Loc.ofCode k).code = k := by
  interval_cases k <;> rfl

theorem bitField_lt (w lo width : Nat) : bitField w lo width < 2 ^ width := Nat.mod_lt _ (Nat.two_pow_pos width)

/-- A bit field of `width` bits is a number below `2 ^ width`. -/
theorem val_ofNat_bitField (w lo width : Nat) :
    (Fin.ofNat (2 ^ width) (bitField w lo width)).val = bitField w lo width :=
  Nat.mod_eq_of_lt (bitField_lt w lo width)

/-- The decoder's fields are the word's digits. -/
theorem eq_decodeFields_iff {word : Word32} {w : Fields} :
    w = decodeFields word ↔
      w.dst.val = bitField word.toNat 0 3 ∧ w.src.val = bitField word.toNat 3 3 ∧
      w.loc.code = bitField word.toNat 6 2 ∧ w.immIdx.val = bitField word.toNat 8 8 ∧
      w.shift.val = bitField word.toNat 16 2 ∧ w.n.val = bitField word.toNat 23 4 ∧
      w.nf.val = bitField word.toNat 27 3 := by
  have hcode := Loc.code_ofCode (bitField_lt word.toNat 6 2)
  constructor
  · rintro rfl
    exact ⟨val_ofNat_bitField _ 0 3, val_ofNat_bitField _ 3 3, hcode, val_ofNat_bitField _ 8 8,
      val_ofNat_bitField _ 16 2, val_ofNat_bitField _ 23 4, val_ofNat_bitField _ 27 3⟩
  · rintro ⟨hdst, hsrc, hloc, himm, hshift, hn, hnf⟩
    cases w
    simp only [decodeFields, ← hdst, ← hsrc, ← hloc, ← himm, ← hshift, ← hn, ← hnf, Loc.ofCode_code,
      Fin.ofNat_val_eq_self]

theorem toNat_encodeWord (i : Instr) :
    (encodeWord i).toNat =
      i.fields.dst.val + i.fields.src.val * 2 ^ 3 + i.fields.loc.code * 2 ^ 6 + i.fields.immIdx.val * 2 ^ 8
        + i.fields.shift.val * 2 ^ 16 + i.opcode * 2 ^ 18 + i.fields.n.val * 2 ^ 23 + i.fields.nf.val * 2 ^ 27 := by
  have hloc := i.fields.loc.code_lt
  have hop := i.opcode_lt
  rw [encodeWord, BitVec.toNat_ofNat, Nat.mod_eq_of_lt]
  omega

/-- Decoding inverts encoding in both directions: the digits of a word with its reserved bits clear determine it. -/
theorem decodeWord_eq_ok_iff_encodeWord_eq {word : Word32} {i : Instr} :
    decodeWord word = .ok i ↔ encodeWord i = word := by
  have hloc := i.fields.loc.code_lt
  have hop := i.opcode_lt
  have hword := word.isLt
  rw [decodeWord_eq_ok_iff, eq_decodeFields_iff, ← BitVec.toNat_inj, toNat_encodeWord]
  simp only [bitField]
  omega

@[simp] theorem decodeWord_encodeWord (i : Instr) : decodeWord (encodeWord i) = .ok i :=
  decodeWord_eq_ok_iff_encodeWord_eq.mpr rfl

/-! ### Bytes (R84, R133) -/

theorem word32OfBytes_word32Bytes (w : Word32) :
    word32OfBytes (BitVec.ofNat 8 w.toNat) (BitVec.ofNat 8 (w.toNat / 2 ^ 8)) (BitVec.ofNat 8 (w.toNat / 2 ^ 16))
      (BitVec.ofNat 8 (w.toNat / 2 ^ 24)) = w := by
  refine BitVec.eq_of_toNat_eq ?_
  simp only [word32OfBytes, BitVec.toNat_ofNat]
  omega

/-- Four bytes whose word decodes are read as that word, whatever follows them. The word is kept opaque, because the
kernel would evaluate its products by `2 ^ 24` step by step. -/
theorem decode_of_decodeWord {bytes rest : List Byte} {b0 b1 b2 b3 : Byte} {i : Instr}
    (hbytes : bytes = b0 :: b1 :: b2 :: b3 :: rest) (h : decodeWord (word32OfBytes b0 b1 b2 b3) = .ok i) :
    decode bytes = .ok (i, rest) := by
  unfold decode
  obtain ⟨wordOf, hwordOf⟩ : ∃ wordOf, wordOf = word32OfBytes := ⟨_, rfl⟩
  rw [← hwordOf] at h ⊢
  simp only [hbytes, h]

/-- From an instruction's bytes followed by anything the decoder reads the instruction and leaves the rest. -/
theorem decode_encode_append (i : Instr) (rest : List Byte) : decode (encode i ++ rest) = .ok (i, rest) := by
  refine decode_of_decodeWord rfl ?_
  rw [word32OfBytes_word32Bytes]
  exact decodeWord_encodeWord i

/-! ### The statements -/

/-- Settles O40: decoding inverts encoding on words, and the four bytes of a word give it back. -/
theorem decodeEncodeRoundTrip : Obligations.DecodeEncodeRoundTrip := fun i rest =>
  ⟨decodeWord_encodeWord i, decode_encode_append i rest⟩

/-- Settles O41: decoding inverts encoding, and of the five-bit opcodes only 30 and 31 are reserved. -/
theorem decodeIsExact : Obligations.DecodeIsExact := by
  refine ⟨fun _ _ => decodeWord_eq_ok_iff_encodeWord_eq.mp, fun word => ?_⟩
  have hop := bitField_lt word.toNat 18 5
  rw [decodeWord_eq_error_iff]
  omega

/-- Settles O2: each word by evaluation. -/
theorem specWordsDecode : Obligations.SpecWordsDecode := by
  unfold Obligations.SpecWordsDecode
  decide

end Sys2Proof
end

section
/-! SUPPORT. The raw encoding: O42. The cumulative frequencies cut the opcode bytes into disjoint intervals in class
order, and the lookup walks them. -/

namespace Sys2Proof

/-! ### Bit fields as bit extractions (R10) -/

theorem bitField_toNat {n : Nat} (x : BitVec n) (lo width : Nat) :
    bitField x.toNat lo width = (x.extractLsb' lo width).toNat := by
  rw [bitField, BitVec.extractLsb'_toNat, Nat.shiftRight_eq_div_pow]

theorem ofNat_bitField {n : Nat} (x : BitVec n) (lo width : Nat) :
    BitVec.ofNat width (bitField x.toNat lo width) = x.extractLsb' lo width := by
  rw [bitField_toNat, BitVec.ofNat_toNat, BitVec.setWidth_eq]

/-! ### The class of an opcode byte (R123) -/

/-- The lookup finds the class in whose interval of cumulative frequencies the byte lies. -/
theorem classLookup_zip {classes : List RawClass} {freq : List Nat} {b : Nat} (hlength : freq.length = classes.length)
    (hb : b < freq.sum) :
    ∃ (c : Nat) (cls : RawClass), classes[c]? = some cls ∧ (freq.take c).sum ≤ b ∧ b < (freq.take (c + 1)).sum ∧
      classLookup (classes.zip freq) b = some cls := by
  induction freq generalizing classes b with
  | nil => cases hb
  | cons k freq ih =>
    cases classes with
    | nil => cases hlength
    | cons cls classes =>
      simp only [List.zip_cons_cons, classLookup]
      split
      · next hk => exact ⟨0, cls, rfl, by simp, by simpa using hk, rfl⟩
      · next hk =>
        rw [List.sum_cons] at hb
        obtain ⟨c, found, hc, hlow, hhigh, hfound⟩ :=
          ih (classes := classes) (b := b - k) (by simpa using hlength) (by omega)
        refine ⟨c + 1, found, hc, ?_, ?_, hfound⟩ <;> rw [List.take_succ_cons, List.sum_cons] <;> omega

/-- A number lies in at most one interval of cumulative frequencies. -/
theorem interval_unique {freq : List Nat} {b c d : Nat} (hclow : (freq.take c).sum ≤ b)
    (hchigh : b < (freq.take (c + 1)).sum) (hdlow : (freq.take d).sum ≤ b) (hdhigh : b < (freq.take (d + 1)).sum) :
    d = c := by
  have before {i j : Nat} (hi : b < (freq.take (i + 1)).sum) (hj : (freq.take j).sum ≤ b) : j ≤ i := by
    by_contra hij
    have hle := freq.monotone_sum_take (Nat.not_le.mp hij)
    exact absurd (hi.trans_le hle) (Nat.not_lt.mpr hj)
  exact Nat.le_antisymm (before hchigh hdlow) (before hdhigh hclow)

/-! ### The fields of a raw word (R120, R121) -/

/-- A raw word whose opcode byte has a class decodes to that class and its own bits. -/
theorem decodeRaw_of_class {freq : List Nat} {w : Word64} {cls : RawClass}
    (h : rawClassOf freq (w.toNat % 256) = some cls) :
    ∃ raw, decodeRaw freq w = some raw ∧ raw.cls = cls ∧
      raw.dst.val = (w.extractLsb' 8 3).toNat ∧ raw.src.val = (w.extractLsb' 16 3).toNat ∧
      raw.modMem.val = (w.extractLsb' 24 2).toNat ∧ raw.modShift.val = (w.extractLsb' 26 2).toNat ∧
      raw.modCond.val = (w.extractLsb' 28 4).toNat ∧ raw.imm32 = w.extractLsb' 32 32 := by
  have hbyte : bitField w.toNat 0 8 = w.toNat % 256 := by simp [bitField]
  rw [decodeRaw, hbyte, h]
  simp only [← bitField_toNat]
  refine ⟨_, rfl, rfl, val_ofNat_bitField _ 8 3, val_ofNat_bitField _ 16 3, val_ofNat_bitField _ 24 2,
    val_ofNat_bitField _ 26 2, val_ofNat_bitField _ 28 4, ofNat_bitField w 32 32⟩

/-- Settles O42: the frequencies sum to more than any byte, so the lookup finds the one interval that holds it. -/
theorem rawDecodingIsUnique : Obligations.RawDecodingIsUnique := by
  intro freq w hlength hsum
  obtain ⟨c, cls, hc, hlow, hhigh, hlookup⟩ :=
    classLookup_zip (classes := RawClass.all) (b := w.toNat % 256) hlength (by omega)
  obtain ⟨raw, hraw, hfields⟩ := decodeRaw_of_class (freq := freq) hlookup
  exact ⟨c, cls, raw, hc, hlow, hhigh, fun d _ => interval_unique hlow hhigh, hraw, hfields⟩

end Sys2Proof
end

section
/-! SUPPORT. Illegal words, O26: R132's checks of a decoded instruction are its conditions on the word's bits, and the
fetch of a group stops at the first word that fails them. -/

namespace Sys2Proof

/-! ### The tables behind R132's checks, by opcode (R127, R128) -/

theorem Instr.locKind_eq_intLoad_iff (i : Instr) : i.locKind = .intLoad ↔ i.opcode ∈ [1, 3, 5, 7, 9, 13] := by
  cases i <;> simp [Instr.locKind, Instr.opcode]

theorem Instr.locKind_eq_floatLoad_iff (i : Instr) : i.locKind = .floatLoad ↔ i.opcode ∈ [19, 21, 24] := by
  cases i <;> simp [Instr.locKind, Instr.opcode]

theorem Instr.locKind_eq_store_iff (i : Instr) : i.locKind = .store ↔ i.opcode = 28 := by
  cases i <;> simp [Instr.locKind, Instr.opcode]

theorem Instr.locKind_eq_none_iff (i : Instr) :
    i.locKind = .none ↔ i.opcode ∉ [1, 3, 5, 7, 9, 13, 19, 21, 24, 28] := by
  cases i <;> simp [Instr.locKind, Instr.opcode]

theorem Instr.dstIsQuad_iff (i : Instr) : i.dstIsQuad = true ↔ 18 ≤ i.opcode ∧ i.opcode ≤ 25 := by
  cases i <;> simp [Instr.dstIsQuad, Instr.opcode]

theorem Instr.srcIsQuad_iff (i : Instr) : i.srcIsQuad = true ↔ i.opcode ∈ [18, 20, 23] := by
  cases i <;> simp [Instr.srcIsQuad, Instr.opcode]

theorem Loc.code_eq_zero_iff (l : Loc) : l.code = 0 ↔ l = .file := by cases l <;> decide

theorem Loc.code_eq_three_iff (l : Loc) : l.code = 3 ↔ l = .l3 := by cases l <;> decide

/-! ### R132's checks as conditions on the digits -/

/-- `loc` disagrees with R128 or R302 by the memory form of its opcode. -/
theorem Instr.locLegal_eq_false_iff (i : Instr) :
    i.locLegal = false ↔
      (i.locKind = .intLoad ∧ (i.fields.loc = .file ∨ ¬(i.fields.loc = .l3 ↔ i.fields.src = i.fields.dst))) ∨
      (i.locKind = .floatLoad ∧ (i.fields.loc = .file ∨ i.fields.loc = .l3)) ∨
      (i.locKind = .store ∧ i.fields.loc = .file) ∨
      (i.locKind = .none ∧ i.fields.loc ≠ .file) := by
  unfold Instr.locLegal
  cases i.locKind with
  | none => simp
  | intLoad => cases i.fields.loc <;> simp
  | floatLoad => cases i.fields.loc <;> simp
  | store => simp

theorem Instr.regsLegal_eq_false_iff (i : Instr) :
    i.regsLegal = false ↔
      (i.dstIsQuad = true ∧ 4 ≤ i.fields.dst.val) ∨ (i.srcIsQuad = true ∧ 4 ≤ i.fields.src.val) := by
  simp only [Instr.regsLegal, Bool.and_eq_false_iff, Bool.or_eq_false_iff, Bool.not_eq_false', decide_eq_false_iff_not,
    Nat.not_lt]

/-- The bits of a word that decodes are illegal exactly when R132's checks reject what it decodes to. -/
theorem illegalBits_iff_of_decodeWord {word : Word32} {i : Instr} (h : decodeWord word = .ok i) :
    Machine.IllegalBits word ↔ i.legal = false := by
  obtain ⟨hreserved, hop, hfields⟩ := decodeWord_eq_ok_iff.mp h
  obtain ⟨hdst, hsrc, hloc, -⟩ := eq_decodeFields_iff.mp hfields
  have hlt := i.opcode_lt
  have hnot : i.opcode ≠ 30 ∧ i.opcode ≠ 31 := by omega
  simp only [Machine.IllegalBits, hreserved, ← hop, ← hdst, ← hsrc, ← hloc, Instr.legal, Bool.and_eq_false_iff,
    Instr.locLegal_eq_false_iff, Instr.regsLegal_eq_false_iff, Instr.locKind_eq_intLoad_iff,
    Instr.locKind_eq_floatLoad_iff, Instr.locKind_eq_store_iff, Instr.locKind_eq_none_iff, Instr.dstIsQuad_iff,
    Instr.srcIsQuad_iff, Loc.code_eq_zero_iff, Loc.code_eq_three_iff, ← Fin.ext_iff, hnot, ne_eq, not_true_eq_false,
    false_or, or_assoc, and_assoc]

/-- A word that does not decode has illegal bits. -/
theorem illegalBits_of_decodeWord_error {word : Word32} {r : DecodeReject} (h : decodeWord word = .error r) :
    Machine.IllegalBits word := by
  have hop := bitField_lt word.toNat 18 5
  rcases decodeWord_eq_error_iff.mp ⟨r, h⟩ with hreserved | hopcode
  · exact .inl hreserved
  · exact .inr ((show _ = 30 ∨ _ = 31 by omega).imp_right .inl)

theorem groupCountsLegal_iff (w n nf : Nat) :
    groupCountsLegal w n nf = true ↔ n ≠ 0 ∧ n ≤ w ∧ nf ≤ n ∧ lanesNeeded w n nf ≤ w := by
  simp [groupCountsLegal, and_assoc]

end Sys2Proof

namespace Sys2Proof.Machine

theorem illegalCounts_iff {w : Nat} {word : Word32} :
    IllegalCounts w word ↔ groupCountsLegal w (bitField word.toNat 23 4) (bitField word.toNat 27 3) = false := by
  rw [← Bool.not_eq_true, groupCountsLegal_iff, IllegalCounts]
  omega

/-! ### Fetching (R256, R257, R414) -/

theorem State.fetchWord_of_illegalBits {s : State} {idx : Nat} {word : Word32} (hprog : s.prog[idx]? = some word)
    (h : IllegalBits word) : s.fetchWord idx = .error (.badWord s.pc idx word) := by
  unfold State.fetchWord
  rw [hprog]
  cases hdecode : decodeWord word with
  | error r => simp only [hdecode]
  | ok i => simp [hdecode, (illegalBits_iff_of_decodeWord hdecode).mp h]

theorem State.fetchWord_of_not_illegalBits {s : State} {idx : Nat} {word : Word32}
    (hprog : s.prog[idx]? = some word) (h : ¬IllegalBits word) :
    ∃ i, decodeWord word = .ok i ∧ s.fetchWord idx = .ok i := by
  cases hdecode : decodeWord word with
  | error r => exact absurd (illegalBits_of_decodeWord_error hdecode) h
  | ok i =>
    have hlegal : i.legal = true := by simpa [illegalBits_iff_of_decodeWord hdecode] using h
    exact ⟨i, rfl, by simp [State.fetchWord, hprog, hdecode, hlegal]⟩

/-- The fetch of the words from `j` on stops at the first one with illegal bits. -/
theorem State.fetchRest_of_illegalBits {s : State} {nf count j k : Nat} {word : Word32} (hjk : j ≤ k)
    (hk : k < j + count) (hprog : s.prog[s.pc + k]? = some word) (hword : IllegalBits word)
    (hbefore : ∀ l, j ≤ l → l < k → ∃ v, s.prog[s.pc + l]? = some v ∧ ¬IllegalBits v) :
    s.fetchRest nf count j = .error (.badWord s.pc (s.pc + k) word) := by
  induction count generalizing j with
  | zero => omega
  | succ count ih =>
    rcases hjk.eq_or_lt with rfl | hlt
    · simp only [State.fetchRest, State.fetchWord_of_illegalBits hprog hword]
    · obtain ⟨v, hv, hlegal⟩ := hbefore j le_rfl hlt
      obtain ⟨i, -, hfetch⟩ := State.fetchWord_of_not_illegalBits hv hlegal
      have hrest := ih hlt (by omega) fun l hl => hbefore l (by omega)
      simp only [State.fetchRest, hfetch, hrest]

/-- A fetch that fails is the step's fault (R414, R415). -/
theorem step_of_fetchGroup_error {s : State} {rec : FaultRecord} (hs : Dispatching s)
    (h : s.fetchGroup = .error rec) : step s = .next (s.raise rec) := by
  obtain ⟨hparams, hfault, hagent, hphase, hinside⟩ := hs
  simp only [step, hparams, hfault, State.agentStep, hagent, State.interpretStep, hphase, State.dispatchStep, hinside,
    State.groupStep, h, if_true]

/-- The first word's counts that the group's fetch reads are bit fields of the word. -/
theorem decodeWord_counts {word : Word32} {i : Instr} (h : decodeWord word = .ok i) :
    i.fields.n.val = bitField word.toNat 23 4 ∧ i.fields.nf.val = bitField word.toNat 27 3 := by
  obtain ⟨-, -, hfields⟩ := decodeWord_eq_ok_iff.mp h
  obtain ⟨-, -, -, -, -, hn, hnf⟩ := eq_decodeFields_iff.mp hfields
  exact ⟨hn, hnf⟩

/-- A first word with illegal bits or counts is the one the fetch names. -/
theorem State.fetchGroup_of_illegal {s : State} {first : Word32} (hprog : s.prog[s.pc]? = some first)
    (h : IllegalBits first ∨ IllegalCounts s.params.w first) :
    s.fetchGroup = .error (.badWord s.pc s.pc first) := by
  by_cases hbits : IllegalBits first
  · simp only [State.fetchGroup, State.fetchWord_of_illegalBits hprog hbits]
  · obtain ⟨i, hdecode, hfetch⟩ := State.fetchWord_of_not_illegalBits hprog hbits
    obtain ⟨hn, hnf⟩ := decodeWord_counts hdecode
    have hcounts := illegalCounts_iff.mp (h.resolve_left hbits)
    simp [State.fetchGroup, hfetch, hn, hnf, hcounts, hprog]

theorem State.fetchGroup_of_past_end {s : State} {first : Word32} (hprog : s.prog[s.pc]? = some first)
    (hbits : ¬IllegalBits first) (hcounts : ¬IllegalCounts s.params.w first)
    (h : s.progLen < s.pc + bitField first.toNat 23 4) :
    s.fetchGroup = .error (.pcRange s.pc (bitField first.toNat 23 4)) := by
  obtain ⟨i, hdecode, hfetch⟩ := State.fetchWord_of_not_illegalBits hprog hbits
  obtain ⟨hn, hnf⟩ := decodeWord_counts hdecode
  rw [illegalCounts_iff, Bool.not_eq_false] at hcounts
  simp [State.fetchGroup, hfetch, hn, hnf, hcounts, h]

/-- Of a group inside the program, whose first word is legal, the fetch names the first word with illegal bits. -/
theorem State.fetchGroup_of_illegal_later {s : State} {first word : Word32} {j : Nat}
    (hprog : s.prog[s.pc]? = some first) (hcounts : ¬IllegalCounts s.params.w first)
    (hinside : s.pc + bitField first.toNat 23 4 ≤ s.progLen) (hj : 1 ≤ j)
    (hjn : j < bitField first.toNat 23 4) (hword : s.prog[s.pc + j]? = some word)
    (hbefore : ∀ (k : Nat) (v : Word32), k < j → s.prog[s.pc + k]? = some v → ¬IllegalBits v)
    (h : IllegalBits word) : s.fetchGroup = .error (.badWord s.pc (s.pc + j) word) := by
  obtain ⟨i, hdecode, hfetch⟩ := State.fetchWord_of_not_illegalBits hprog (hbefore 0 first hj hprog)
  obtain ⟨hn, hnf⟩ := decodeWord_counts hdecode
  rw [illegalCounts_iff, Bool.not_eq_false] at hcounts
  have hrest : s.fetchRest i.fields.nf.val (i.fields.n.val - 1) 1 = .error (.badWord s.pc (s.pc + j) word) := by
    refine State.fetchRest_of_illegalBits hj (by omega) hword h fun l _ hl => ?_
    have hlt : s.pc + l < s.prog.length := by
      unfold State.progLen at hinside
      omega
    exact ⟨s.prog[s.pc + l], List.getElem?_eq_getElem hlt, hbefore l _ hl (List.getElem?_eq_getElem hlt)⟩
  rw [hn, hnf] at hrest
  simp [State.fetchGroup, hfetch, hn, hnf, hcounts, hinside, hrest]

/-- Settles O26: the fetch of a group makes the checks in R414's order, and the step raises what it finds. -/
theorem illegalWordsFault : Obligations.IllegalWordsFault := fun _ _ hs hprog =>
  ⟨fun h => step_of_fetchGroup_error hs (State.fetchGroup_of_illegal hprog h),
    fun _ hcounts hinside _ _ hj hjn hword hbefore h =>
      step_of_fetchGroup_error hs (State.fetchGroup_of_illegal_later hprog hcounts hinside hj hjn hword hbefore h),
    fun hbits hcounts h => step_of_fetchGroup_error hs (State.fetchGroup_of_past_end hprog hbits hcounts h)⟩

end Sys2Proof.Machine
end

section
/-! SUPPORT. Lowering, O43: one lemma per field of the compiled form, by the raw class. The degenerate forms are those
R217 makes a NOP, an ISWAP_R of a register with itself and an IMUL_RCP by 0 or a power of two. -/

namespace Sys2Proof.Machine

/-! ### Degenerate forms (R217) -/

theorem degenerateDivisor_iff (d : Word32) :
    degenerateDivisor d = true ↔ d = 0 ∨ ∃ k : Nat, d.toNat = 2 ^ k := by
  simp only [degenerateDivisor, Bool.or_eq_true, beq_iff_eq]
  refine or_congr_right' fun hd => ?_
  have hpos : d.toNat ≠ 0 := fun h => hd (BitVec.eq_of_toNat_eq h)
  have hpred : (d - 1).toNat = d.toNat - 1 :=
    BitVec.toNat_sub_of_le (BitVec.le_def.mpr (Nat.one_le_iff_ne_zero.mpr hpos))
  rw [← BitVec.toNat_inj, BitVec.toNat_and, hpred]
  exact Nat.and_sub_one_eq_zero_iff_isPowerOfTwo hpos

/-- The raw instructions that lower to NOP. -/
def Degenerate (raw : RawInstr) : Prop :=
  (raw.cls = .iswapR ∧ raw.src = raw.dst) ∨ (raw.cls = .imulRcp ∧ (raw.imm32 = 0 ∨ ∃ k : Nat, raw.imm32.toNat = 2 ^ k))

theorem lower_of_degenerate {raw : RawInstr} (creg : Fin 8) (h : Degenerate raw) :
    lower raw creg = .nop ⟨0, 0, .file, 0, 0, 0, 0⟩ := by
  rcases h with ⟨hcls, hsrc⟩ | ⟨hcls, hdivisor⟩
  · simp [lower, hcls, hsrc, bareFields]
  · simp [lower, hcls, (degenerateDivisor_iff _).mpr hdivisor, bareFields]

/-- What is not degenerate takes the other branch of `lower`, where its class has two. -/
theorem branches_of_not_degenerate {raw : RawInstr} (h : ¬Degenerate raw) :
    (raw.cls = .iswapR → raw.src ≠ raw.dst) ∧ (raw.cls = .imulRcp → degenerateDivisor raw.imm32 = false) := by
  refine ⟨fun hcls hsrc => h (.inl ⟨hcls, hsrc⟩), fun hcls => ?_⟩
  rw [← Bool.not_eq_true, degenerateDivisor_iff]
  exact fun hdivisor => h (.inr ⟨hcls, hdivisor⟩)

/-! ### The fields of the compiled form (R127, R128, R227) -/

theorem mod4_val (j : Fin 8) : (mod4 j).val = j.val % 4 := by
  rw [mod4, Fin.val_ofNat]
  omega

section NotDegenerate

variable {raw : RawInstr} (creg : Fin 8) (h : ¬Degenerate raw)
include h

theorem lower_class : RawClass.all[(lower raw creg).opcode]? = some raw.cls := by
  obtain ⟨hswap, hrcp⟩ := branches_of_not_degenerate h
  cases hcls : raw.cls <;> simp [lower, hcls, hswap, hrcp, Instr.opcode, RawClass.all]

theorem lower_dst :
    (lower raw creg).fields.dst.val =
      if raw.cls = .cbranch then creg.val
      else if raw.cls = .cfround then 0
      else if raw.cls ∈ [RawClass.faddR, .faddM, .fsubR, .fsubM, .fscalR, .fmulR, .fdivM, .fsqrtR] then raw.dst.val % 4
      else raw.dst.val := by
  obtain ⟨hswap, hrcp⟩ := branches_of_not_degenerate h
  cases hcls : raw.cls <;> simp [lower, hcls, hswap, hrcp, Instr.fields, bareFields, mod4_val]

theorem lower_src :
    (lower raw creg).fields.src.val =
      if raw.cls ∈ [RawClass.imulRcp, .inegR, .fswapR, .fscalR, .fsqrtR, .cbranch] then 0
      else if raw.cls ∈ [RawClass.faddR, .fsubR, .fmulR] then raw.src.val % 4
      else raw.src.val := by
  obtain ⟨hswap, hrcp⟩ := branches_of_not_degenerate h
  cases hcls : raw.cls <;> simp [lower, hcls, hswap, hrcp, Instr.fields, bareFields, mod4_val]

theorem lower_loc :
    (lower raw creg).fields.loc =
      if raw.cls ∈ [RawClass.iaddM, .isubM, .imulM, .imulhM, .ismulhM, .ixorM] then intLoadLoc raw
      else if raw.cls ∈ [RawClass.faddM, .fsubM, .fdivM] then modWindow raw
      else if raw.cls = .istore then storeLoc raw
      else .file := by
  obtain ⟨hswap, hrcp⟩ := branches_of_not_degenerate h
  cases hcls : raw.cls <;> simp [lower, hcls, hswap, hrcp, Instr.fields, bareFields]

theorem lower_shift : (lower raw creg).fields.shift = if raw.cls = .iaddRs then raw.modShift else 0 := by
  obtain ⟨hswap, hrcp⟩ := branches_of_not_degenerate h
  cases hcls : raw.cls <;> simp [lower, hcls, hswap, hrcp, Instr.fields, bareFields]

end NotDegenerate

theorem lower_opcode_eq_nop_iff (raw : RawInstr) (creg : Fin 8) : (lower raw creg).opcode = 29 ↔ Degenerate raw := by
  constructor
  · intro hnop
    by_contra h
    have hclass := lower_class creg h
    rw [hnop] at hclass
    cases hclass
  · intro h
    rw [lower_of_degenerate creg h]
    rfl

/-! ### Legality (R132) -/

theorem modWindow_eq_l1_or_l2 (raw : RawInstr) : modWindow raw = .l1 ∨ modWindow raw = .l2 := by
  unfold modWindow
  split <;> simp

theorem intLoadLoc_ne_file (raw : RawInstr) : intLoadLoc raw ≠ .file := by
  rcases modWindow_eq_l1_or_l2 raw with h | h <;> unfold intLoadLoc <;> split <;> simp [h]

/-- The widest window exactly for `src = dst`. -/
theorem intLoadLoc_eq_l3_iff (raw : RawInstr) : intLoadLoc raw = .l3 ↔ raw.src = raw.dst := by
  rcases modWindow_eq_l1_or_l2 raw with h | h <;> simp [intLoadLoc, h]

theorem storeLoc_ne_file (raw : RawInstr) : storeLoc raw ≠ .file := by
  rcases modWindow_eq_l1_or_l2 raw with h | h <;> unfold storeLoc <;> split <;> simp [h]

theorem mod4_lt (j : Fin 8) : (mod4 j).val < 4 := mod4_val j ▸ Nat.mod_lt _ (by decide)

theorem lower_locLegal {raw : RawInstr} (creg : Fin 8) (h : ¬Degenerate raw) :
    (lower raw creg).locLegal = true := by
  obtain ⟨hswap, hrcp⟩ := branches_of_not_degenerate h
  cases hcls : raw.cls <;>
    simp [lower, hcls, hswap, hrcp, Instr.locLegal, Instr.locKind, Instr.fields, bareFields, intLoadLoc_ne_file,
      intLoadLoc_eq_l3_iff, modWindow_eq_l1_or_l2, storeLoc_ne_file]

theorem lower_regsLegal {raw : RawInstr} (creg : Fin 8) (h : ¬Degenerate raw) :
    (lower raw creg).regsLegal = true := by
  obtain ⟨hswap, hrcp⟩ := branches_of_not_degenerate h
  cases hcls : raw.cls <;>
    simp [lower, hcls, hswap, hrcp, Instr.regsLegal, Instr.dstIsQuad, Instr.srcIsQuad, Instr.fields, bareFields,
      mod4_lt]

/-- A compiled form is a NOP with every field 0, or passes R132's checks on `loc` and on the registers. -/
theorem lower_wellFormed (raw : RawInstr) (creg : Fin 8) : (lower raw creg).wellFormed = true := by
  by_cases h : Degenerate raw
  · rw [lower_of_degenerate creg h]
    rfl
  · simp only [Instr.wellFormed, Instr.legal, lower_locLegal creg h, lower_regsLegal creg h, Bool.and_self]

/-- Settles O43: legality by R132's checks, the degenerate forms by R217, and the compiled form field by field. -/
theorem loweredWordsAreLegal : Obligations.LoweredWordsAreLegal := fun raw creg =>
  ⟨lower_wellFormed raw creg, lower_opcode_eq_nop_iff raw creg, lower_of_degenerate creg, fun h =>
    ⟨lower_class creg h, lower_dst creg h, lower_src creg h, lower_loc creg h, lower_shift creg h⟩⟩

end Sys2Proof.Machine
end

section
/-! SUPPORT. The program decoder, O53: its two functions on seed words by shifts and masks, the number a small positive
float stands for, and the decode step field by field. -/

namespace Sys2Proof.Machine

/-! ### The seed functions by shifts and masks (R173, R176) -/

/-- The exponent field of a small positive float does not wrap: the seed's top five bits above the bias (R173). -/
theorem smallPositiveFloat_toNat (x : Word64) :
    (smallPositiveFloat x).toNat = (x.toNat / 2 ^ 59 + 1023) * 2 ^ 52 + x.toNat % 2 ^ 52 := by
  have htop : x.toNat / 2 ^ 59 < 2 ^ 5 := by omega
  have hexp : (x.toNat / 2 ^ 59 + 1023) % 2 ^ 11 = x.toNat / 2 ^ 59 + 1023 := Nat.mod_eq_of_lt (by omega)
  have hfrac : x.toNat % 2 ^ 52 < 2 ^ 52 := Nat.mod_lt _ (by decide)
  rw [smallPositiveFloat, BitVec.toNat_ofNat, hexp]
  exact Nat.mod_eq_of_lt (by omega)

theorem smallPositiveFloat_eq_shifts (x : Word64) :
    smallPositiveFloat x = (((x >>> 59) + 1023) &&& 0x7FF) <<< 52 ||| (x &&& 0xFFFFFFFFFFFFF) := by
  have htop : x.toNat / 2 ^ 59 < 2 ^ 5 := by omega
  have hsum : ((x >>> 59) + 1023).toNat = x.toNat / 2 ^ 59 + 1023 := by
    rw [BitVec.toNat_add, BitVec.toNat_ushiftRight, Nat.shiftRight_eq_div_pow]
    exact Nat.mod_eq_of_lt (show x.toNat / 2 ^ 59 + 1023 < 2 ^ 64 by omega)
  have hexp : (((x >>> 59) + 1023) &&& 0x7FF).toNat = x.toNat / 2 ^ 59 + 1023 := by
    rw [BitVec.toNat_and, hsum]
    exact (Nat.and_two_pow_sub_one_eq_mod _ 11).trans (Nat.mod_eq_of_lt (by omega))
  have hfrac : (x &&& 0xFFFFFFFFFFFFF).toNat = x.toNat % 2 ^ 52 := by
    rw [BitVec.toNat_and]
    exact Nat.and_two_pow_sub_one_eq_mod _ 52
  have hlt : x.toNat % 2 ^ 52 < 2 ^ 52 := Nat.mod_lt _ (by decide)
  have hfits : (x.toNat / 2 ^ 59 + 1023) * 2 ^ 52 < 2 ^ 64 := by omega
  apply BitVec.eq_of_toNat_eq
  rw [smallPositiveFloat_toNat, BitVec.toNat_or, BitVec.toNat_shiftLeft, hexp, hfrac, Nat.shiftLeft_eq,
    Nat.mod_eq_of_lt hfits, Nat.mul_comm, Nat.two_pow_add_eq_or_of_lt hlt]

theorem exponentMask_eq_shifts (x : Word64) :
    exponentMask x = (x &&& 0x3FFFFF) ||| (0x300 ||| (x >>> 60) <<< 4) <<< 52 := by
  have hfield : (0x300 ||| (x >>> 60) <<< 4 : Word64).toNat = 0x300 ||| x.toNat / 2 ^ 60 * 2 ^ 4 := by
    rw [BitVec.toNat_or, BitVec.toNat_shiftLeft, BitVec.toNat_ushiftRight, Nat.shiftRight_eq_div_pow,
      Nat.shiftLeft_eq, Nat.mod_eq_of_lt (show x.toNat / 2 ^ 60 * 2 ^ 4 < 2 ^ 64 by omega)]
    rfl
  rw [exponentMask, ← hfield, ← Nat.shiftLeft_eq]
  rfl

/-! ### The number a small positive float stands for (R173) -/

/-- A pattern without a sign whose exponent field is neither 0 nor all ones stands for `1.fraction × 2^(field − 1023)`
(R12). -/
theorem fpRat_of_normal {x : Word64} {field frac : Nat} (h : x.toNat = field * 2 ^ 52 + frac) (hfrac : frac < 2 ^ 52)
    (hpos : 0 < field) (hlt : field < 2047) :
    fpRat x = some ((2 ^ 52 + frac : ℚ) * 2 ^ ((field : ℤ) - 1075)) := by
  have hsign : decide (x.toNat / 2 ^ 63 % 2 = 1) = false := decide_eq_false (by omega)
  have hfield : x.toNat / 2 ^ 52 % 2 ^ 11 = field := by omega
  have hlow : x.toNat % 2 ^ 52 = frac := by omega
  simp only [fpRat, fpDecode, hsign, hfield, hlow, if_neg hlt.ne, if_neg hpos.ne', Bool.false_eq_true, if_false,
    one_mul, Nat.cast_add, Nat.cast_pow, Nat.cast_ofNat]

/-- A number with 53 significant bits lies between the power of two of its leading bit and the next one. -/
theorem significand_range {frac k : Nat} (hfrac : frac < 2 ^ 52) :
    (2 : ℚ) ^ k ≤ (2 ^ 52 + frac) * 2 ^ ((k : ℤ) - 52) ∧ (2 ^ 52 + frac) * (2 : ℚ) ^ ((k : ℤ) - 52) < 2 ^ (k + 1) := by
  have hvalue : (2 ^ 52 + frac) * (2 : ℚ) ^ ((k : ℤ) - 52) = 2 ^ k * ((2 ^ 52 + frac) / 2 ^ 52) := by
    rw [zpow_sub₀ two_ne_zero, zpow_natCast, zpow_ofNat, mul_div_left_comm]
  have hpos : (0 : ℚ) < 2 ^ k := by positivity
  have hcast : (frac : ℚ) < 2 ^ 52 := by exact_mod_cast hfrac
  have hone : (1 : ℚ) ≤ (2 ^ 52 + frac) / 2 ^ 52 :=
    (one_le_div (by positivity)).mpr (le_add_of_nonneg_right frac.cast_nonneg)
  have htwo : (2 ^ 52 + frac : ℚ) / 2 ^ 52 < 2 := (div_lt_iff₀ (by positivity)).mpr (by linarith)
  rw [hvalue, pow_succ _ k]
  exact ⟨le_mul_of_one_le_right hpos.le hone, mul_lt_mul_of_pos_left htwo hpos⟩

/-- A small positive float is `1.fraction × 2^k` with `k` the seed's top five bits. -/
theorem fpRat_smallPositiveFloat (x : Word64) :
    ∃ q, fpRat (smallPositiveFloat x) = some q ∧ 1 ≤ q ∧ q < 2 ^ 32 := by
  have htop : x.toNat / 2 ^ 59 < 32 := by omega
  have hfrac : x.toNat % 2 ^ 52 < 2 ^ 52 := Nat.mod_lt _ (by decide)
  obtain ⟨hlow, hhigh⟩ := significand_range (k := x.toNat / 2 ^ 59) hfrac
  have hexp : ((x.toNat / 2 ^ 59 + 1023 : Nat) : ℤ) - 1075 = ((x.toNat / 2 ^ 59 : Nat) : ℤ) - 52 := by omega
  refine ⟨_, fpRat_of_normal (smallPositiveFloat_toNat x) hfrac (by omega) (by omega), ?_⟩
  rw [hexp]
  exact ⟨(one_le_pow₀ one_le_two).trans hlow, hhigh.trans_le (pow_le_pow_right₀ one_le_two htop)⟩

/-! ### The fields the decoder writes (R172–R178) -/

theorem lowWord_eq_extractLsb' (x : Word64) : lowWord x = x.extractLsb' 0 32 := by
  rw [lowWord, BitVec.extractLsb', Nat.shiftRight_zero]

/-- Selector `k` names the odd register of its pair exactly when bit `k` is set (R177). -/
theorem readSelector_val_eq (x : Word64) (k : Fin 4) :
    (readSelector x k).val = 2 * k.val + (x.extractLsb' k.val 1).toNat := by
  rw [readSelector, bitField_toNat, Fin.val_ofNat]
  exact Nat.mod_eq_of_lt (by omega)

theorem State.decodeSeeds_reg (s : State) (k : Fin 8) : s.decodeSeeds.reg k = 0 := by
  fin_cases k <;> rfl

theorem State.decodeSeeds_aReg (s : State) (k : Fin 4) :
    s.decodeSeeds.aReg k =
      ⟨smallPositiveFloat (s.seedWord (2 * k.val)), smallPositiveFloat (s.seedWord (2 * k.val + 1))⟩ :=
  Bank4.get_ofFn _ k

theorem State.decodeSeeds_readReg_val (s : State) (k : Fin 4) :
    (s.decodeSeeds.readReg.get k).val = 2 * k.val + ((s.seedWord 10).extractLsb' k.val 1).toNat :=
  (congrArg Fin.val (Bank4.get_ofFn _ k)).trans (readSelector_val_eq _ k)

theorem State.decodeSeeds_ma (s : State) :
    s.decodeSeeds.ma = (s.seedWord 8).extractLsb' 0 32 &&& datasetAlignMask :=
  congrArg (· &&& datasetAlignMask) (lowWord_eq_extractLsb' _)

/-- The pairs of group A lie 16 bytes apart in the entropy buffer, the high half's seed word after the low half's
(R170, R173). -/
theorem State.seedWord_pair (s : State) (k : Nat) :
    s.seedWord (2 * k) = s.entropy.readWord (16 * k) ∧ s.seedWord (2 * k + 1) = s.entropy.readWord (16 * k + 8) := by
  rw [State.seedWord, State.seedWord, Nat.mul_add, ← Nat.mul_assoc]
  exact ⟨rfl, rfl⟩

/-- The step of a compile engine at its start is the decoder's (R200; log 8). -/
theorem step_of_decode {s : State} (hok : s.params.ok = true) (hf : s.fault = none) (ha : s.agent = .compile .decode) :
    step s =
      .next { s.decodeSeeds with compiler := .initial, imm := [], prog := [], agent := .compile (.pass1 0) } := by
  simp only [step, hok, hf, State.agentStep, ha, State.compileStep, if_true]

/-- Settles O53: the decode step field by field, the two seed functions by shifts, and the range of the float. -/
theorem decoderConstants : Obligations.DecoderConstants := by
  refine ⟨fun s hok hf ha => ⟨_, step_of_decode hok hf ha, s.decodeSeeds_reg, fun k => ?_, s.decodeSeeds_ma,
    lowWord_eq_extractLsb' _, rfl, rfl, rfl, rfl, rfl, rfl, rfl, rfl, rfl⟩,
    fun x => ⟨smallPositiveFloat_eq_shifts x, fpRat_smallPositiveFloat x, exponentMask_eq_shifts x,
      isExponentMask_exponentMask x⟩⟩
  obtain ⟨hlo, hhi⟩ := s.seedWord_pair k.val
  have hpair := s.decodeSeeds_aReg k
  rw [hlo, hhi] at hpair
  exact ⟨congrArg FReg.lo hpair, congrArg FReg.hi hpair, s.decodeSeeds_readReg_val k⟩

end Sys2Proof.Machine
end

section
/-! SUPPORT. One placement of pass 2, O58: what the tracker's tables hold after it, what the earliest legal cycle is
bounded by, and that with these bounds a legal schedule stays one (R225). -/

namespace Sys2Proof.Machine

open Sys2Proof.Config (Params)

/-! ### One figure per resource (R208, R221) -/

theorem Bank8.get_set {α : Type} (b : Bank8 α) (i j : Fin 8) (v : α) :
    (b.set j v).get i = if i = j then v else b.get i := by
  split
  · next h => rw [h, Bank8.get_set_same]
  · next h => exact Bank8.get_set_of_ne b v h

theorem Bank4.get_set {α : Type} (b : Bank4 α) (i j : Fin 4) (v : α) :
    (b.set j v).get i = if i = j then v else b.get i := by
  split
  · next h => rw [h, Bank4.get_set_same]
  · next h => exact Bank4.get_set_of_ne b v h

theorem ResTable.get_set (t : ResTable) (x y : Resource) (v : Nat) :
    (t.set x v).get y = if y = x then v else t.get y := by
  cases x <;> cases y <;> simp [ResTable.set, ResTable.get, Bank8.get_set, Bank4.get_set]

/-- Raising a list of resources raises exactly those. -/
theorem ResTable.get_foldl_raiseTo (l : List Resource) (t : ResTable) (v : Nat) (y : Resource) :
    (l.foldl (fun t x => t.raiseTo v x) t).get y = if y ∈ l then max (t.get y) v else t.get y := by
  induction l generalizing t with
  | nil => simp
  | cons x l ih =>
    rw [List.foldl_cons, ih, ResTable.raiseTo, ResTable.get_set]
    by_cases hx : y = x
    · subst hx
      by_cases hl : y ∈ l <;> simp [hl]
    · simp [hx]

theorem ResTable.get_le_get_foldl_raiseTo (l : List Resource) (t : ResTable) (v : Nat) (y : Resource) :
    t.get y ≤ (l.foldl (fun t x => t.raiseTo v x) t).get y := by
  rw [ResTable.get_foldl_raiseTo]
  split
  · exact Nat.le_max_left _ _
  · exact Nat.le_refl _

theorem ResTable.le_get_foldl_raiseTo {l : List Resource} (t : ResTable) (v : Nat) {y : Resource} (h : y ∈ l) :
    v ≤ (l.foldl (fun t x => t.raiseTo v x) t).get y := by
  rw [ResTable.get_foldl_raiseTo, if_pos h]
  exact Nat.le_max_right _ _

theorem Compiler.wAvail_le_availAt (c : Compiler) (x : Resource) : c.wAvail.get x ≤ c.availAt x := by
  cases x with
  | mem => exact Nat.le_max_left _ _
  | r _ | f _ | e _ | fprc => exact Nat.le_refl _

theorem Compiler.availAt_mono {c d : Compiler} (wAvail : ∀ x, c.wAvail.get x ≤ d.wAvail.get x)
    (high : c.memAvailHigh ≤ d.memAvailHigh) (x : Resource) : c.availAt x ≤ d.availAt x := by
  cases x with
  | mem => exact max_le_max (wAvail .mem) high
  | r j => exact wAvail (.r j)
  | f j => exact wAvail (.f j)
  | e j => exact wAvail (.e j)
  | fprc => exact wAvail .fprc

/-! ### The update after a placement (R224) -/

/-- The high latency class is ISTORE's alone (R221). -/
theorem writeSet_of_highStore {i : Instr} (h : highStore i = true) : writeSet i = [.mem] := by
  cases i with
  | istore w => rfl
  | _ => simp [highStore, Instr.locKind] at h

section Place

variable (p : Params) (c : Compiler) (k : Nat) (i : Instr) (cyc immIdx : Nat)

@[simp] theorem Compiler.place_placed : (c.place p k i cyc immIdx).placed = c.placed ++ [⟨cyc, immIdx⟩] := rfl

@[simp] theorem Compiler.place_branches : (c.place p k i cyc immIdx).branches = c.branches := rfl

@[simp] theorem Compiler.place_used : (c.place p k i cyc immIdx).used = addUsed c.used cyc (laneNeed p.w i) := rfl

@[simp] theorem Compiler.place_lastUsedCycle :
    (c.place p k i cyc immIdx).lastUsedCycle = max c.lastUsedCycle cyc := rfl

theorem Compiler.place_rFree_get (x : Resource) :
    (c.place p k i cyc immIdx).rFree.get x = if x ∈ readSet i then max (c.rFree.get x) (cyc + 1) else c.rFree.get x :=
  ResTable.get_foldl_raiseTo _ _ _ _

theorem Compiler.rFree_le_place (x : Resource) : c.rFree.get x ≤ (c.place p k i cyc immIdx).rFree.get x :=
  ResTable.get_le_get_foldl_raiseTo _ _ _ _

theorem Compiler.cutFloor_le_place (h : c.cutFloor ≤ cyc) : c.cutFloor ≤ (c.place p k i cyc immIdx).cutFloor := by
  have floor (b : Bool) : c.cutFloor ≤ if b = true then cyc + 1 else c.cutFloor := by
    split
    · exact Nat.le_succ_of_le h
    · exact Nat.le_refl _
  simp only [Compiler.place]
  split
  · exact le_max_of_le_left (floor _)
  · exact floor _

theorem Compiler.lt_cutFloor_place_cbranch (w : Fields) :
    cyc < (c.place p k (.cbranch w) cyc immIdx).cutFloor := by
  simp only [Compiler.place, if_true]
  split
  · exact lt_max_of_lt_left (Nat.lt_succ_self cyc)
  · exact Nat.lt_succ_self cyc

theorem Compiler.le_cutFloor_place (h : c.isTarget k = true) : cyc ≤ (c.place p k i cyc immIdx).cutFloor := by
  simp only [Compiler.place, if_pos h]
  exact Nat.le_max_right _ _

theorem Compiler.le_place_wAvail (x : Resource) :
    (if highStore i = true then c.wAvail
      else (writeSet i).foldl (fun t y => t.raiseTo (cyc + writeLatency p i) y) c.wAvail).get x ≤
      (c.place p k i cyc immIdx).wAvail.get x := by
  simp only [Compiler.place]
  generalize (if highStore i = true then c.wAvail else _) = written
  split
  · exact ResTable.get_le_get_foldl_raiseTo _ _ _ _
  · exact Nat.le_refl _

theorem Compiler.le_place_memAvailHigh :
    (if highStore i = true then max c.memAvailHigh (cyc + writeLatency p i) else c.memAvailHigh) ≤
      (c.place p k i cyc immIdx).memAvailHigh := by
  simp only [Compiler.place]
  generalize (if highStore i = true then _ else c.memAvailHigh) = high
  split
  · exact Nat.le_max_left _ _
  · exact Nat.le_refl _

/-- No chain's figure falls. -/
theorem Compiler.availAt_le_place (x : Resource) : c.availAt x ≤ (c.place p k i cyc immIdx).availAt x := by
  refine Compiler.availAt_mono (fun y => ?_) ?_ x
  · refine Nat.le_trans ?_ (c.le_place_wAvail p k i cyc immIdx y)
    split
    · exact Nat.le_refl _
    · exact ResTable.get_le_get_foldl_raiseTo _ _ _ _
  · refine Nat.le_trans ?_ (c.le_place_memAvailHigh p k i cyc immIdx)
    split
    · exact Nat.le_max_left _ _
    · exact Nat.le_refl _

/-- A latency is at least 1, so what the instruction writes is readable only later (R221). -/
theorem Compiler.lt_availAt_place {x : Resource} (latency : 1 ≤ writeLatency p i) (h : x ∈ writeSet i) :
    cyc < (c.place p k i cyc immIdx).availAt x := by
  cases hhigh : highStore i with
  | true =>
    rw [writeSet_of_highStore hhigh, List.mem_singleton] at h
    have hfig := c.le_place_memAvailHigh p k i cyc immIdx
    rw [if_pos hhigh] at hfig
    subst h
    refine Nat.lt_of_lt_of_le ?_ (hfig.trans (Nat.le_max_right _ _))
    exact lt_max_of_lt_right (by omega)
  | false =>
    have hfig := c.le_place_wAvail p k i cyc immIdx x
    rw [if_neg (by simp [hhigh])] at hfig
    have hraise := ResTable.le_get_foldl_raiseTo c.wAvail (cyc + writeLatency p i) h
    have havail := Compiler.wAvail_le_availAt (c.place p k i cyc immIdx) x
    omega

end Place

/-! ### The earliest legal cycle (R222) -/

theorem foldl_max_eq (l : List Nat) (a : Nat) : l.foldl max a = max a (maxList l) := by
  induction l generalizing a with
  | nil => simp [maxList]
  | cons x l ih => rw [maxList, List.foldl_cons, List.foldl_cons, ih, ih (max 0 x), Nat.zero_max, Nat.max_assoc]

theorem le_maxList {l : List Nat} {x : Nat} (h : x ∈ l) : x ≤ maxList l := by
  induction l with
  | nil => cases h
  | cons y l ih =>
    have hcons : maxList (y :: l) = max y (maxList l) := by rw [maxList, List.foldl_cons, Nat.zero_max, foldl_max_eq]
    rw [hcons]
    rcases List.mem_cons.mp h with rfl | h
    · exact Nat.le_max_left _ _
    · exact le_max_of_le_right (ih h)

section Earliest

variable (c : Compiler) (k : Nat) (i : Instr)

theorem Compiler.cutFloor_le_earliest : c.cutFloor ≤ c.earliest k i :=
  le_max_of_le_left (le_max_of_le_left (Nat.le_max_left _ _))

theorem Compiler.availAt_le_earliest {x : Resource} (h : x ∈ readSet i ∨ x ∈ writeSet i) :
    c.availAt x ≤ c.earliest k i :=
  le_max_of_le_left (le_max_of_le_left (le_max_of_le_right
    (le_maxList (List.mem_map_of_mem (List.mem_append.mpr h)))))

theorem Compiler.rFree_le_earliest {x : Resource} (h : x ∈ writeSet i) : c.rFree.get x ≤ c.earliest k i :=
  le_max_of_le_left (le_max_of_le_right (le_max_of_le_left (le_maxList (List.mem_map_of_mem h))))

/-- Term (d): a branch target is later than everything placed. -/
theorem Compiler.lt_earliest_of_isTarget (h : c.isTarget k = true) : c.lastUsedCycle < c.earliest k i := by
  have hterm : (c.lastUsedCycle + 1).toNat ≤ c.earliest k i := by
    refine le_max_of_le_left (le_max_of_le_right (le_max_of_le_right ?_))
    rw [if_pos h]
  omega

/-- Term (e): a CBRANCH is not earlier than anything placed. -/
theorem Compiler.le_earliest_cbranch (w : Fields) : c.lastUsedCycle ≤ c.earliest k (.cbranch w) := by
  have hterm : c.lastUsedCycle.toNat ≤ c.earliest k (.cbranch w) := Nat.le_max_right _ _
  omega

end Earliest

/-! ### Lanes (R59, R209, R213) -/

theorem usedAt_addUsed (used : List (Nat × Nat)) (cyc need m : Nat) :
    usedAt (addUsed used cyc need) m = usedAt used m + if cyc = m then need else 0 := by
  by_cases h : cyc = m
  · simp [usedAt, addUsed, h]
  · have hfilter : (used.filter fun e => e.1 != cyc).find? (fun e => e.1 == m) = used.find? fun e => e.1 == m := by
      rw [List.find?_filter]
      congr 1
      funext e
      by_cases he : e.1 = m <;> simp [he]
      exact fun hm => h hm.symm
    simp [usedAt, addUsed, h, hfilter]

theorem lanesPlaced_concat (w : Nat) {instrs : List Instr} {placed : List Placed} (i : Instr) (q : Placed) (m : Nat)
    (h : instrs.length = placed.length) :
    lanesPlaced w (instrs ++ [i]) (placed ++ [q]) m =
      lanesPlaced w instrs placed m + if q.cycle = m then laneNeed w i else 0 := by
  by_cases hq : q.cycle = m <;> simp [lanesPlaced, List.zip_append h, List.filter_append, hq]

/-- Placing an instruction in a cycle with room for it keeps the lanes' count and the capacity. -/
theorem LanesInv.place {p : Params} {instrs : List Instr} {c : Compiler} (h : LanesInv p.w instrs c)
    (sameLength : instrs.length = c.placed.length) (i : Instr) (k cyc immIdx : Nat)
    (room : usedAt c.used cyc + laneNeed p.w i ≤ p.w) :
    LanesInv p.w (instrs ++ [i]) (c.place p k i cyc immIdx) where
  counted m := by
    rw [Compiler.place_used, usedAt_addUsed, Compiler.place_placed, lanesPlaced_concat p.w i _ m sameLength, h.counted]
  capacity m := by
    rw [Compiler.place_used, usedAt_addUsed]
    split
    · next hm => exact hm ▸ room
    · exact h.capacity m

/-! ### A legal schedule stays legal (R211, R214, R225) -/

/-- A pair of entries of a list with one more at the end: both of the list before, or the later one the new one. -/
theorem getElem?_pair_concat {α : Type} {l : List α} {x p q : α} {i j : Nat} (hij : i < j)
    (hp : (l ++ [x])[i]? = some p) (hq : (l ++ [x])[j]? = some q) :
    l[i]? = some p ∧ (l[j]? = some q ∧ j < l.length ∨ j = l.length ∧ q = x) := by
  have hlen := (List.getElem?_eq_some_iff.mp hq).1
  rw [List.length_append, List.length_singleton] at hlen
  rw [List.getElem?_append_left (by omega)] at hp
  refine ⟨hp, ?_⟩
  rcases Nat.lt_or_ge j l.length with hj | hj
  · exact .inl ⟨by rwa [List.getElem?_append_left hj] at hq, hj⟩
  · obtain rfl : j = l.length := by omega
    exact .inr ⟨rfl, by simpa using hq.symm⟩

/-- An entry of a list with one more at the end. -/
theorem getElem?_concat_eq_some {α : Type} {l : List α} {x p : α} {i : Nat} (h : (l ++ [x])[i]? = some p) :
    l[i]? = some p ∧ i < l.length ∨ i = l.length ∧ p = x := by
  rw [List.getElem?_append] at h
  split at h
  · next hi => exact .inl ⟨h, hi⟩
  · next hi =>
    obtain ⟨hlen, hx⟩ := List.getElem?_eq_some_iff.mp h
    rw [List.length_singleton] at hlen
    exact .inr ⟨by omega, by simpa using hx.symm⟩

/-- Two conflicting instructions share a resource that one of them writes (R208). -/
theorem exists_of_conflicts {a b : Instr} (h : conflicts a b = true) :
    ∃ x, x ∈ writeSet a ∧ (x ∈ readSet b ∨ x ∈ writeSet b) ∨ x ∈ readSet a ∧ x ∈ writeSet b := by
  obtain ⟨x, -, hx⟩ := List.any_eq_true.mp h
  exact ⟨x, by simpa [conflictOn] using hx⟩

theorem writeLatency_pos {p : Params} (hok : p.ok = true) (i : Instr) : 1 ≤ writeLatency p i := by
  obtain ⟨-, -, -, hInt, hFp, hMem, hMemHigh, -⟩ := p.ok_iff.mp hok
  unfold writeLatency
  split
  · exact hFp
  · split
    · split
      · exact hMemHigh
      · exact hMem
    · exact hInt

section Legal

variable {p : Params} {instrs : List Instr} {c : Compiler} {i : Instr} {cyc : Nat}

/-- Placed not before its earliest cycle, an instruction is later than everything it conflicts with (R214). -/
theorem TrackerInv.lt_of_conflicts (h : TrackerInv instrs c) (hcyc : c.earliest instrs.length i ≤ cyc) {m : Nat}
    {a : Instr} {q : Placed} (ha : instrs[m]? = some a) (hq : c.placed[m]? = some q) (hai : conflicts a i = true) :
    q.cycle < cyc := by
  obtain ⟨x, ⟨hw, hx⟩ | ⟨hr, hx⟩⟩ := exists_of_conflicts hai
  · exact (h.writes m a q x ha hq hw).trans_le ((c.availAt_le_earliest instrs.length i hx).trans hcyc)
  · exact (h.reads m a q x ha hq hr).trans_le ((c.rFree_le_earliest instrs.length i hx).trans hcyc)

theorem TrackerInv.place (h : TrackerInv instrs c) (hok : p.ok = true) (hcyc : c.earliest instrs.length i ≤ cyc)
    (immIdx : Nat) : TrackerInv (instrs ++ [i]) (c.place p instrs.length i cyc immIdx) where
  sameLength := by simp [h.sameLength]
  writes m a q x ha hq hx := by
    rcases getElem?_concat_eq_some ha with ⟨ha, hm⟩ | ⟨rfl, rfl⟩
    · rw [Compiler.place_placed, List.getElem?_append_left (h.sameLength ▸ hm)] at hq
      exact (h.writes m a q x ha hq hx).trans_le (c.availAt_le_place p instrs.length i cyc immIdx x)
    · rw [Compiler.place_placed, h.sameLength, List.getElem?_concat_length] at hq
      cases hq
      exact c.lt_availAt_place p instrs.length a cyc immIdx (writeLatency_pos hok a) hx
  reads m a q x ha hq hx := by
    rcases getElem?_concat_eq_some ha with ⟨ha, hm⟩ | ⟨rfl, rfl⟩
    · rw [Compiler.place_placed, List.getElem?_append_left (h.sameLength ▸ hm)] at hq
      exact (h.reads m a q x ha hq hx).trans_le (c.rFree_le_place p instrs.length i cyc immIdx x)
    · rw [Compiler.place_placed, h.sameLength, List.getElem?_concat_length] at hq
      cases hq
      rw [Compiler.place_rFree_get, if_pos hx]
      exact lt_max_of_lt_right (Nat.lt_succ_self cyc)
  hazards m n a b q r hmn ha hb hq hr hab := by
    have hlength := h.sameLength
    obtain ⟨hma, hnb⟩ := getElem?_pair_concat hmn ha hb
    obtain ⟨hmq, hnr⟩ := getElem?_pair_concat hmn hq hr
    rcases hnb with ⟨hnb, hn⟩ | ⟨hn, rfl⟩ <;> rcases hnr with ⟨hnr, hn'⟩ | ⟨hn', rfl⟩
    · exact h.hazards m n a b q r hmn hma hnb hmq hnr hab
    · omega
    · omega
    · exact h.lt_of_conflicts hcyc hma hmq hab

theorem CutInv.place (h : CutInv instrs c) (sameLength : instrs.length = c.placed.length)
    (hcyc : c.earliest instrs.length i ≤ cyc) (immIdx : Nat) :
    CutInv (instrs ++ [i]) (c.place p instrs.length i cyc immIdx) := by
  have hfloor : c.cutFloor ≤ cyc := (c.cutFloor_le_earliest instrs.length i).trans hcyc
  have hfloor' := c.cutFloor_le_place p instrs.length i cyc immIdx hfloor
  have instrs_of_lt {m : Nat} {a : Instr} (ha : (instrs ++ [i])[m]? = some a) (hm : m < c.placed.length) :
      instrs[m]? = some a := by rwa [List.getElem?_append_left (sameLength ▸ hm)] at ha
  have instrs_last {a : Instr} (ha : (instrs ++ [i])[c.placed.length]? = some a) : i = a := by
    rw [← sameLength, List.getElem?_concat_length] at ha
    exact Option.some.inj ha
  have lt_length {m : Nat} {q : Placed} (hq : c.placed[m]? = some q) := (List.getElem?_eq_some_iff.mp hq).1
  constructor
  case last =>
    intro q hq
    rw [Compiler.place_lastUsedCycle]
    rcases List.mem_append.mp hq with hq | hq
    · exact le_max_of_le_left (h.last q hq)
    · rw [List.mem_singleton.mp hq]
      exact Int.le_max_right _ _
  case branchFloor =>
    intro m w q ha hq
    rcases getElem?_concat_eq_some hq with ⟨hq, hm⟩ | ⟨rfl, rfl⟩
    · exact (h.branchFloor m w q (instrs_of_lt ha hm) hq).trans_le hfloor'
    · rw [instrs_last ha]
      exact c.lt_cutFloor_place_cbranch p _ cyc immIdx w
  case targetFloor =>
    intro m q ht hq
    rcases getElem?_concat_eq_some hq with ⟨hq, -⟩ | ⟨rfl, rfl⟩
    · exact (h.targetFloor m q ht hq).trans hfloor'
    · exact c.le_cutFloor_place p _ i cyc immIdx (sameLength ▸ ht)
  case branchUpper =>
    intro m n w q r hmn ha hq hr
    obtain ⟨hq, ⟨hr, -⟩ | ⟨-, rfl⟩⟩ := getElem?_pair_concat hmn hq hr
    · exact h.branchUpper m n w q r hmn (instrs_of_lt ha (lt_length hq)) hq hr
    · exact (h.branchFloor m w q (instrs_of_lt ha (lt_length hq)) hq).trans_le hfloor
  case branchLower =>
    intro m n w q r hmn ha hq hr
    obtain ⟨hq, ⟨hr, -⟩ | ⟨rfl, rfl⟩⟩ := getElem?_pair_concat hmn hq hr
    · exact h.branchLower m n w q r hmn (instrs_of_lt ha (lt_length hr)) hq hr
    · have hlast := h.last q (List.mem_of_getElem? hq)
      have hterm := c.le_earliest_cbranch instrs.length w
      rw [← instrs_last ha] at hterm
      show q.cycle ≤ cyc
      omega
  case targetLower =>
    intro m n q r hmn ht hq hr
    obtain ⟨hq, ⟨hr, -⟩ | ⟨rfl, rfl⟩⟩ := getElem?_pair_concat hmn hq hr
    · exact h.targetLower m n q r hmn ht hq hr
    · have hlast := h.last q (List.mem_of_getElem? hq)
      have hterm := c.lt_earliest_of_isTarget instrs.length i (sameLength ▸ ht)
      show q.cycle < cyc
      omega
  case targetUpper =>
    intro m n q r hmn ht hq hr
    obtain ⟨hq, ⟨hr, -⟩ | ⟨-, rfl⟩⟩ := getElem?_pair_concat hmn hq hr
    · exact h.targetUpper m n q r hmn ht hq hr
    · exact (h.targetFloor m q ht hq).trans hfloor

/-- Pass 2 keeps a legal schedule legal (R225). -/
theorem ScheduleInv.pass2 {d : Compiler} {imm imm' : List Word32} {raw : RawInstr} (h : ScheduleInv p.w instrs c)
    (hok : p.ok = true) (hd : c.pass2 p imm instrs.length raw = .ok (d, imm')) :
    ScheduleInv p.w (instrs ++ [lower raw (c.cregAt instrs.length)]) d := by
  obtain ⟨cyc, -, hfind, rfl, -⟩ := Compiler.pass2_cases hd
  obtain ⟨hcyc, hroom⟩ := findCycle_some hfind
  exact
    { tracker := h.tracker.place hok hcyc _
      lanes := h.lanes.place h.tracker.sameLength _ _ _ _ hroom
      cuts := h.cuts.place h.tracker.sameLength hcyc _ }

end Legal

/-- A program with nothing placed is a legal schedule, whatever pass 1 has found. -/
theorem ScheduleInv.initial (w : Nat) (hist : Bank8 RegHist) (branches : List Branch) :
    ScheduleInv w [] { Compiler.initial with hist := hist, branches := branches } := by
  have none {α : Type} {m : Nat} {x : α} (h : ([] : List α)[m]? = some x) : False := by simp at h
  exact
    { tracker := ⟨rfl, fun _ _ _ _ h => (none h).elim, fun _ _ _ _ h => (none h).elim,
        fun _ _ _ _ _ _ _ h => (none h).elim⟩
      lanes := ⟨fun _ => rfl, fun _ => Nat.zero_le w⟩
      cuts := ⟨fun _ h => (List.not_mem_nil h).elim, fun _ _ _ h => (none h).elim, fun _ _ _ h => (none h).elim,
        fun _ _ _ _ _ _ h => (none h).elim, fun _ _ _ _ _ _ h => (none h).elim,
        fun _ _ _ _ _ _ h => (none h).elim, fun _ _ _ _ _ _ h => (none h).elim⟩ }

/-- Settles O58: the new placement is not before its earliest legal cycle, which the tracker's figures keep past
everything it conflicts with and past the cuts, and the search finds room. -/
theorem scheduleStaysLegal : Obligations.ScheduleStaysLegal :=
  ⟨fun _ _ _ _ _ _ _ hok h hd => h.pass2 hok hd, ScheduleInv.initial⟩

end Sys2Proof.Machine
end

section
/-! SUPPORT. Pass 1 of the compile engine, O54 and O55: the selection walks the registers in index order and keeps the
one of least rank, and the history names, register by register, the last instruction that changed it. -/

namespace Sys2Proof.Machine

open Sys2Proof.Config (Params)

/-! ### The selection (R203) -/

/-- Register `i` ranks no later than `j`: by key, ties by index (R203). -/
def RanksBefore (hist : Bank8 RegHist) (i j : Fin 8) : Prop :=
  keyLess (hist.get i).key (hist.get j).key = true ∨ (hist.get i).key = (hist.get j).key ∧ i ≤ j

theorem keyLess_iff (x y : Int × Nat) : keyLess x y = true ↔ x.1 < y.1 ∨ x.1 = y.1 ∧ x.2 < y.2 := by
  simp [keyLess]

theorem ranksBefore_iff (hist : Bank8 RegHist) (i j : Fin 8) :
    RanksBefore hist i j ↔
      (hist.get i).key.1 < (hist.get j).key.1 ∨
        ((hist.get i).key.1 = (hist.get j).key.1 ∧
          ((hist.get i).key.2 < (hist.get j).key.2 ∨ ((hist.get i).key.2 = (hist.get j).key.2 ∧ i ≤ j))) := by
  rw [RanksBefore, keyLess_iff, Prod.ext_iff]
  tauto

theorem RanksBefore.trans {hist : Bank8 RegHist} {i j k : Fin 8} (hij : RanksBefore hist i j)
    (hjk : RanksBefore hist j k) : RanksBefore hist i k := by
  rw [ranksBefore_iff] at *
  omega

/-- Of two registers in index order, the one the selection keeps ranks before both. -/
theorem ranksBefore_ite {hist : Bank8 RegHist} {i j : Fin 8} (h : i ≤ j) :
    let best := if keyLess (hist.get j).key (hist.get i).key then j else i
    RanksBefore hist best i ∧ RanksBefore hist best j := by
  intro best
  by_cases hkey : keyLess (hist.get j).key (hist.get i).key = true
  · rw [show best = j from if_pos hkey]
    exact ⟨.inl hkey, .inr ⟨rfl, le_refl j⟩⟩
  · rw [show best = i from if_neg hkey]
    rw [keyLess_iff] at hkey
    exact ⟨.inr ⟨rfl, le_refl i⟩, (ranksBefore_iff hist i j).mpr (by omega)⟩

/-- The register kept ranks before the first one and before every one listed after it, the list rising. -/
theorem ranksBefore_selectFrom {hist : Bank8 RegHist} {l : List (Fin 8)} {first : Fin 8}
    (h : (first :: l).Pairwise (· < ·)) : ∀ j ∈ first :: l, RanksBefore hist (selectFrom hist l first) j := by
  induction l generalizing first with
  | nil =>
    intro j hj
    rw [List.mem_singleton.mp hj]
    exact .inr ⟨rfl, le_refl first⟩
  | cons m l ih =>
    obtain ⟨hfirst, hm⟩ := List.pairwise_cons.mp h
    have hlt : first < m := hfirst m List.mem_cons_self
    obtain ⟨hbestFirst, hbestM⟩ := ranksBefore_ite (hist := hist) (le_of_lt hlt)
    rw [selectFrom]
    generalize hbest : (if keyLess (hist.get m).key (hist.get first).key then m else first) = best at *
    have hrising : (best :: l).Pairwise (· < ·) := by
      refine List.pairwise_cons.mpr ⟨fun j hj => ?_, (List.pairwise_cons.mp hm).2⟩
      have hmj := (List.pairwise_cons.mp hm).1 j hj
      subst hbest
      split
      · exact hmj
      · exact hlt.trans hmj
    have hrest := ih hrising
    intro j hj
    have hkept := hrest best List.mem_cons_self
    rcases List.mem_cons.mp hj with rfl | hj
    · exact hkept.trans hbestFirst
    · rcases List.mem_cons.mp hj with rfl | hj
      · exact hkept.trans hbestM
      · exact hrest j (List.mem_cons_of_mem _ hj)

theorem ranksBefore_selectCreg (hist : Bank8 RegHist) (j : Fin 8) : RanksBefore hist (selectCreg hist) j :=
  ranksBefore_selectFrom (by decide) j (by revert j; decide)

/-! ### One CBRANCH (R202–R207) -/

section Branch

variable {p : Params} {i : Nat} {raw : RawInstr} {c : Compiler}

theorem Compiler.pass1_cbranch (h : raw.cls = .cbranch) :
    c.pass1 p i raw =
      { c with
        branches := ⟨i, cregOf p c.hist raw, branchTargetOf c.hist (cregOf p c.hist raw)⟩ :: c.branches
        hist := (c.pass1 p i raw).hist } := by
  simp [Compiler.pass1, h]

theorem Compiler.pass1_other (h : raw.cls ≠ .cbranch) :
    c.pass1 p i raw = { c with hist := (c.pass1 p i raw).hist } := by
  simp [Compiler.pass1, h]

/-- Pass 1 changes the history and the branches only. -/
theorem Compiler.pass1_only_hist_branches (p : Params) (i : Nat) (raw : RawInstr) (c : Compiler) :
    c.pass1 p i raw = { c with hist := (c.pass1 p i raw).hist, branches := (c.pass1 p i raw).branches } := by
  by_cases h : raw.cls = .cbranch <;> simp [Compiler.pass1, h]

/-- After a CBRANCH every register is marked as written at it (R207). -/
theorem Compiler.pass1_cbranch_hist (h : raw.cls = .cbranch) (j : Fin 8) :
    ((c.pass1 p i raw).hist.get j).lastWrite = i ∧ ((c.pass1 p i raw).hist.get j).written = true := by
  simp only [Compiler.pass1, if_pos h, Bank8.get_ofFn]
  exact ⟨rfl, rfl⟩

theorem Compiler.pass1_cbranch_usage_select (h : raw.cls = .cbranch) (hrule : p.cregRule = .select) (j : Fin 8) :
    ((c.pass1 p i raw).hist.get j).usage = (c.hist.get j).usage + if j = cregOf p c.hist raw then 1 else 0 := by
  simp only [Compiler.pass1, if_pos h, Bank8.get_ofFn, hrule, Bank8.get_set]
  split
  · next hj => rw [hj]; rfl
  · rfl

theorem Compiler.pass1_cbranch_usage_dstField (h : raw.cls = .cbranch) (hrule : p.cregRule = .dstField) (j : Fin 8) :
    ((c.pass1 p i raw).hist.get j).usage = (c.hist.get j).usage := by
  simp only [Compiler.pass1, if_pos h, Bank8.get_ofFn, hrule]
  rfl

/-- What an instruction other than CBRANCH changes in the history: the registers it writes (R202). -/
theorem Compiler.pass1_other_hist (h : raw.cls ≠ .cbranch) (j : Fin 8) :
    (c.pass1 p i raw).hist.get j =
      if integerWrites (lower raw 0) j then (c.hist.get j).wroteAt i else c.hist.get j := by
  simp only [Compiler.pass1, if_neg h, Bank8.get_ofFn]

end Branch

/-- Settles O54: the selection by ranks, the update by the two rules. -/
theorem conditionRegisterSelection : Obligations.ConditionRegisterSelection := by
  intro p i raw c hcls creg d key usage
  refine ⟨fun hrule => ⟨fun j => ?_, Compiler.pass1_cbranch_usage_select hcls hrule⟩,
    fun hrule => ⟨by simp only [creg, cregOf, hrule], Compiler.pass1_cbranch_usage_dstField hcls hrule⟩, ?_,
    Compiler.pass1_cbranch_hist hcls, by simp only [lower, hcls]; rfl, ?_⟩
  · have hrank := (ranksBefore_iff _ _ _).mp (ranksBefore_selectCreg c.hist j)
    rw [show selectCreg c.hist = creg by simp only [creg, cregOf, hrule]] at hrank
    exact hrank
  · exact congrArg Compiler.branches (Compiler.pass1_cbranch hcls)
  · exact Compiler.pass1_only_hist_branches p i raw c

/-! ### The history of a program (R205, R206) -/

/-- The instruction after the last that changed `r[j]`, and so a branch's target on that register, moves only when an
instruction changes `r[j]` (R202, R207). -/
theorem branchTargetOf_pass1 (p : Params) (i : Nat) (raw : RawInstr) (c : Compiler) (j : Fin 8) :
    RawWrites raw j ∧ branchTargetOf (c.pass1 p i raw).hist j = i + 1 ∨
      ¬RawWrites raw j ∧ branchTargetOf (c.pass1 p i raw).hist j = branchTargetOf c.hist j := by
  by_cases hcls : raw.cls = .cbranch
  · obtain ⟨hlast, hwritten⟩ := Compiler.pass1_cbranch_hist (p := p) (i := i) (c := c) hcls j
    refine .inl ⟨.inl hcls, ?_⟩
    rw [branchTargetOf, if_pos hwritten, hlast]
    omega
  · have hhist := Compiler.pass1_other_hist (p := p) (i := i) (c := c) hcls j
    by_cases hw : integerWrites (lower raw 0) j = true
    · refine .inl ⟨.inr hw, ?_⟩
      rw [branchTargetOf, hhist, if_pos hw]
      simp only [RegHist.wroteAt, if_true]
      omega
    · refine .inr ⟨fun h => h.elim hcls hw, ?_⟩
      rw [branchTargetOf, hhist, if_neg hw]
      rfl

/-- No instruction from `start` up to `k` changes `r[j]`. -/
def UnchangedFrom (raws : List RawInstr) (start k : Nat) (j : Fin 8) : Prop :=
  start ≤ k ∧ ∀ (m : Nat) (raw : RawInstr), start ≤ m → m < k → raws[m]? = some raw → ¬RawWrites raw j

/-- What holds after pass 1 has examined the first `k` raw instructions. -/
structure PassOneInv (raws : List RawInstr) (k : Nat) (c : Compiler) : Prop where
  history : ∀ j : Fin 8, UnchangedFrom raws (branchTargetOf c.hist j) k j
  ranges : ∀ b ∈ c.branches, UnchangedFrom raws b.target b.idx b.creg
  branches : ∀ b ∈ c.branches, b.idx < k ∧ ∃ raw, raws[b.idx]? = some raw ∧ raw.cls = .cbranch
  resolved : ∀ (m : Nat) (raw : RawInstr), m < k → raws[m]? = some raw → raw.cls = .cbranch →
    ∃ b ∈ c.branches, b.idx = m
  once : (c.branches.map (·.idx)).Nodup
  untouched : c = { Compiler.initial with hist := c.hist, branches := c.branches }

theorem PassOneInv.initial (raws : List RawInstr) : PassOneInv raws 0 .initial where
  history j := by
    rw [show branchTargetOf Compiler.initial.hist j = 0 by fin_cases j <;> rfl]
    exact ⟨Nat.le_refl 0, fun _ _ _ h => (Nat.not_lt_zero _ h).elim⟩
  ranges _ h := (List.not_mem_nil h).elim
  branches _ h := (List.not_mem_nil h).elim
  resolved _ _ h := (Nat.not_lt_zero _ h).elim
  once := List.nodup_nil
  untouched := rfl

theorem UnchangedFrom.pass1 {raws : List RawInstr} {k : Nat} {raw : RawInstr} {c : Compiler} {j : Fin 8} (p : Params)
    (h : UnchangedFrom raws (branchTargetOf c.hist j) k j) (hraw : raws[k]? = some raw) :
    UnchangedFrom raws (branchTargetOf (c.pass1 p k raw).hist j) (k + 1) j := by
  obtain ⟨hle, hnone⟩ := h
  rcases branchTargetOf_pass1 p k raw c j with ⟨-, htarget⟩ | ⟨hunwritten, htarget⟩
  · rw [htarget]
    exact ⟨Nat.le_refl _, fun m _ hm hm' => absurd hm' (Nat.not_lt.mpr hm)⟩
  · rw [htarget]
    refine ⟨Nat.le_succ_of_le hle, fun m raw' hm hm' hraw' => ?_⟩
    rcases Nat.lt_succ_iff_lt_or_eq.mp hm' with hlt | rfl
    · exact hnone m raw' hm hlt hraw'
    · obtain rfl : raw = raw' := Option.some.inj (hraw.symm.trans hraw')
      exact hunwritten

theorem PassOneInv.pass1 {raws : List RawInstr} {k : Nat} {raw : RawInstr} {c : Compiler} (p : Params)
    (h : PassOneInv raws k c) (hraw : raws[k]? = some raw) : PassOneInv raws (k + 1) (c.pass1 p k raw) := by
  have hhistory j := (h.history j).pass1 p hraw
  have huntouched : c.pass1 p k raw =
      { Compiler.initial with hist := (c.pass1 p k raw).hist, branches := (c.pass1 p k raw).branches } :=
    (Compiler.pass1_only_hist_branches p k raw c).trans
      (congrArg (fun d : Compiler => { d with
        hist := (c.pass1 p k raw).hist, branches := (c.pass1 p k raw).branches }) h.untouched)
  by_cases hcls : raw.cls = .cbranch
  · have hbranches := congrArg Compiler.branches (Compiler.pass1_cbranch (p := p) (i := k) (c := c) hcls)
    simp only at hbranches
    refine ⟨hhistory, ?_, ?_, fun m raw' hm hraw' hcls' => ?_, ?_, huntouched⟩ <;> rw [hbranches]
    · exact List.forall_mem_cons.mpr ⟨h.history _, h.ranges⟩
    · exact List.forall_mem_cons.mpr ⟨⟨Nat.lt_succ_self k, raw, hraw, hcls⟩, fun b hb =>
        ⟨Nat.lt_succ_of_lt (h.branches b hb).1, (h.branches b hb).2⟩⟩
    · rcases Nat.lt_succ_iff_lt_or_eq.mp hm with hlt | rfl
      · obtain ⟨b, hb, hidx⟩ := h.resolved m raw' hlt hraw' hcls'
        exact ⟨b, List.mem_cons_of_mem _ hb, hidx⟩
      · exact ⟨_, List.mem_cons_self, rfl⟩
    · refine List.nodup_cons.mpr ⟨fun hmem => ?_, h.once⟩
      obtain ⟨b, hb, hidx⟩ := List.mem_map.mp hmem
      exact (h.branches b hb).1.ne hidx
  · have hbranches := congrArg Compiler.branches (Compiler.pass1_other (p := p) (i := k) (c := c) hcls)
    simp only at hbranches
    refine ⟨hhistory, ?_, ?_, fun m raw' hm hraw' hcls' => ?_, ?_, huntouched⟩ <;> rw [hbranches]
    · exact h.ranges
    · exact fun b hb => ⟨Nat.lt_succ_of_lt (h.branches b hb).1, (h.branches b hb).2⟩
    · rcases Nat.lt_succ_iff_lt_or_eq.mp hm with hlt | rfl
      · exact h.resolved m raw' hlt hraw' hcls'
      · obtain rfl : raw = raw' := Option.some.inj (hraw.symm.trans hraw')
        exact absurd hcls' hcls
    · exact h.once

theorem passOneAfter_inv (p : Params) (raws : List RawInstr) {k : Nat} (hk : k ≤ raws.length) :
    PassOneInv raws k (passOneAfter p raws k) := by
  induction k with
  | zero => exact PassOneInv.initial raws
  | succ k ih =>
    have hraw := List.getElem?_eq_getElem (Nat.lt_of_succ_le hk)
    simp only [passOneAfter, hraw]
    exact (ih (Nat.le_of_succ_le hk)).pass1 p hraw

/-- Settles O55: the history's figure for a register is past every instruction that changed it. -/
theorem branchRangeKeepsItsRegister : Obligations.BranchRangeKeepsItsRegister := by
  intro p raws b hb
  have hinv := passOneAfter_inv p raws (Nat.le_refl raws.length)
  obtain ⟨htarget, hnone⟩ := hinv.ranges b hb
  exact ⟨(hinv.branches b hb).1, htarget, hnone⟩

end Sys2Proof.Machine
end

section
/-! SUPPORT. The immediates, O56, O57 and O59: the long division keeps quotient and remainder, CBRANCH's immediate bit
by bit, the entries of each class, and that the placement search finds room because fewer cycles are in use than it
looks at. -/

namespace Sys2Proof.Machine

open Sys2Proof.Config (Params)

/-! ### The reciprocal (R218) -/

/-- One round doubles the dividend. -/
theorem rcpRound_spec {d : Nat} {qr : Nat × Nat} (h : qr.2 < d) :
    (rcpRound d qr).1 * d + (rcpRound d qr).2 = 2 * (qr.1 * d + qr.2) ∧ (rcpRound d qr).2 < d := by
  obtain ⟨q, r⟩ := qr
  simp only [rcpRound] at h ⊢
  split
  · simp only [Nat.add_mul, Nat.mul_assoc]
    omega
  · simp only [Nat.mul_assoc]
    omega

theorem rcpRounds_spec {d : Nat} (k : Nat) {qr : Nat × Nat} (h : qr.2 < d) :
    (rcpRounds d k qr).1 * d + (rcpRounds d k qr).2 = 2 ^ k * (qr.1 * d + qr.2) ∧ (rcpRounds d k qr).2 < d := by
  induction k generalizing qr with
  | zero => simpa [rcpRounds] using h
  | succ k ih =>
    obtain ⟨hround, hlt⟩ := rcpRound_spec h
    rw [rcpRounds, Nat.pow_succ, Nat.mul_assoc, ← hround]
    exact ih hlt

/-- `k` rounds from the quotient and remainder of `n` give those of `2 ^ k * n`. -/
theorem rcpRounds_fst {d : Nat} (k n : Nat) (hd : 0 < d) : (rcpRounds d k (n / d, n % d)).1 = 2 ^ k * n / d := by
  obtain ⟨hsum, hlt⟩ := rcpRounds_spec k (qr := (n / d, n % d)) (Nat.mod_lt n hd)
  rw [Nat.div_add_mod'] at hsum
  rw [← hsum, Nat.mul_comm, Nat.mul_add_div hd, Nat.div_eq_of_lt hlt, Nat.add_zero]

theorem bitLen_eq {n k : Nat} (hlow : 2 ^ (k - 1) ≤ n) (hhigh : n < 2 ^ k) : bitLen n = k := by
  have hn : n ≠ 0 := fun h => by simp [h] at hlow
  have hk : k ≠ 0 := fun h => hn (by simpa [h] using hhigh)
  have hlog : Nat.log2 n = k - 1 := by
    rw [Nat.log2_eq_iff hn, Nat.sub_add_cancel (Nat.one_le_iff_ne_zero.mpr hk)]
    exact ⟨hlow, hhigh⟩
  rw [bitLen, if_neg hn, hlog]
  omega

/-- The constant lies strictly between 2^63 and 2^64, so 64 bits hold it. -/
theorem reciprocal_toNat {d : Word32} {k : Nat} (hlow : 2 ^ (k - 1) < d.toNat) (hhigh : d.toNat < 2 ^ k) :
    (reciprocal d).toNat = 2 ^ (63 + k) / d.toNat ∧ 2 ^ 63 < (reciprocal d).toNat := by
  have hd : 0 < d.toNat := Nat.zero_lt_of_lt hlow
  have hk : k ≠ 0 := fun h => by simp [h] at hhigh; omega
  have hbelow : 2 ^ (63 + k) / d.toNat < 2 ^ 64 := by
    rw [Nat.div_lt_iff_lt_mul hd, show 63 + k = 64 + (k - 1) by omega, Nat.pow_add]
    exact Nat.mul_lt_mul_of_pos_left hlow (Nat.two_pow_pos 64)
  have habove : 2 ^ 63 + 1 ≤ 2 ^ (63 + k) / d.toNat := by
    have hmul : 2 ^ 63 * (d.toNat + 1) ≤ 2 ^ 63 * 2 ^ k := Nat.mul_le_mul_left _ hhigh
    have hword := d.isLt
    rw [Nat.le_div_iff_mul_le hd, Nat.pow_add]
    omega
  have hval : (reciprocal d).toNat = 2 ^ (63 + k) / d.toNat := by
    rw [reciprocal, bitLen_eq (Nat.le_of_lt hlow) hhigh, rcpRounds_fst _ _ hd, ← Nat.pow_add, Nat.add_comm k,
      BitVec.toNat_ofNat, Nat.mod_eq_of_lt hbelow]
  exact ⟨hval, hval ▸ habove⟩

theorem highWord_eq_extractLsb' (x : Word64) : highWord x = x.extractLsb' 32 32 := by
  rw [highWord, BitVec.extractLsb', Nat.shiftRight_eq_div_pow]

/-- The entries of IMUL_RCP with a divisor that is not degenerate (R129, R217). -/
theorem immEntries_imulRcp {raw : RawInstr} (hcls : raw.cls = .imulRcp) (hzero : raw.imm32 ≠ 0)
    (hpow : ∀ k : Nat, raw.imm32.toNat ≠ 2 ^ k) :
    immEntries raw = [(reciprocal raw.imm32).extractLsb' 0 32, (reciprocal raw.imm32).extractLsb' 32 32] := by
  have hdiv : degenerateDivisor raw.imm32 ≠ true := by
    rw [Ne, degenerateDivisor_iff, not_or]
    exact ⟨hzero, not_exists.mpr hpow⟩
  simp only [immEntries, hcls, if_neg hdiv, lowWord_eq_extractLsb', highWord_eq_extractLsb']

theorem immEntries_imulRcp_degenerate {raw : RawInstr} (hcls : raw.cls = .imulRcp)
    (h : raw.imm32 = 0 ∨ ∃ k : Nat, raw.imm32.toNat = 2 ^ k) : immEntries raw = [] := by
  simp only [immEntries, hcls, if_pos ((degenerateDivisor_iff _).mpr h)]

/-- Strictly between two neighbouring powers of two there is none. -/
theorem ne_two_pow_of_between {n k : Nat} (hlow : 2 ^ (k - 1) < n) (hhigh : n < 2 ^ k) (m : Nat) : n ≠ 2 ^ m := by
  rintro rfl
  have hlow' := (Nat.pow_lt_pow_iff_right Nat.one_lt_two).mp hlow
  have hhigh' := (Nat.pow_lt_pow_iff_right Nat.one_lt_two).mp hhigh
  omega

/-- Settles O56: the rounds double the dividend `k` times, and `d` lies between two powers of two. -/
theorem reciprocalIsFloor : Obligations.ReciprocalIsFloor := by
  intro d k hlow hhigh _
  obtain ⟨hval, habove⟩ := reciprocal_toNat hlow hhigh
  refine ⟨hval, habove, fun raw hcls hd => ?_⟩
  subst hd
  refine immEntries_imulRcp hcls (fun hzero => ?_) (ne_two_pow_of_between hlow hhigh)
  simp [hzero] at hlow

/-! ### CBRANCH's immediate (R219) -/

theorem getLsbD_ofNat_two_pow {b k : Nat} (hk : k < 64) : (BitVec.ofNat 64 (2 ^ b)).getLsbD k = decide (k = b) := by
  rw [BitVec.getLsbD_ofNat, Nat.testBit_two_pow, decide_eq_true hk, Bool.true_and]
  exact decide_eq_decide.mpr eq_comm

theorem getLsbD_cbranchImm (raw : RawInstr) {k : Nat} (hk : k < 64) :
    (cbranchImm raw).getLsbD k =
      if k = raw.modCond.val + 8 then true else if k = raw.modCond.val + 8 - 1 then false
      else (raw.imm32.signExtend 64).getLsbD k := by
  rw [cbranchImm, BitVec.getLsbD_and, BitVec.getLsbD_or, BitVec.getLsbD_not, getLsbD_ofNat_two_pow hk,
    getLsbD_ofNat_two_pow hk, show cbranchBit raw = raw.modCond.val + 8 from rfl]
  by_cases hset : k = raw.modCond.val + 8
  · have hclear : k ≠ raw.modCond.val + 8 - 1 := by omega
    simp [hset]
    omega
  · by_cases hclear : k = raw.modCond.val + 8 - 1 <;> simp [hset, hclear, hk, Bool.and_comm]

/-- Bits 63 to 32 are bit 31, since `b` is at most 23. -/
theorem signExtend_low_cbranchImm (raw : RawInstr) :
    ((cbranchImm raw).extractLsb' 0 32).signExtend 64 = cbranchImm raw := by
  have hcond := raw.modCond.isLt
  have above {k : Nat} (hk : 31 ≤ k) (hk' : k < 64) : (cbranchImm raw).getLsbD k = raw.imm32.msb := by
    rw [getLsbD_cbranchImm raw hk', if_neg (by omega), if_neg (by omega), BitVec.getLsbD_signExtend]
    rcases Nat.eq_or_lt_of_le hk with rfl | hlt
    · simp [BitVec.msb_eq_getLsbD_last]
    · simp [hk', Nat.not_lt.mpr hlt]
  refine BitVec.eq_of_getLsbD_eq fun k hk => ?_
  rw [BitVec.getLsbD_signExtend]
  by_cases hlow : k < 32
  · simp [hk, hlow]
  · rw [above (by omega) hk, BitVec.msb_eq_getLsbD_last]
    simpa [hk, hlow] using above (Nat.le_refl 31) (by omega)

theorem bitField_cbranchEntry {b target : Nat} (hb : b < 32) (htarget : target < 65536) :
    bitField (cbranchEntry b target).toNat 0 16 = target ∧ bitField (cbranchEntry b target).toNat 16 5 = b ∧
      bitField (cbranchEntry b target).toNat 21 11 = 0 := by
  have hval : (cbranchEntry b target).toNat = b * 2 ^ 16 + target := by
    rw [cbranchEntry, BitVec.toNat_ofNat, Nat.mod_eq_of_lt]
    omega
  rw [hval]
  simp only [bitField]
  omega

/-- Settles O57: the immediate bit by bit, and the second entry's three fields. -/
theorem branchImmediate : Obligations.BranchImmediate :=
  ⟨fun raw => ⟨fun _ => getLsbD_cbranchImm raw, signExtend_low_cbranchImm raw⟩, fun _ _ => bitField_cbranchEntry⟩

/-! ### The entries of each class (R129) -/

theorem immEntries_cbranch {raw : RawInstr} (hcls : raw.cls = .cbranch) :
    immEntries raw = [lowWord (cbranchImm raw), cbranchEntry (cbranchBit raw) 0] := by
  simp only [immEntries, hcls]

theorem cbranchBit_lt (raw : RawInstr) : cbranchBit raw < 32 := by
  have hcond := raw.modCond.isLt
  rw [cbranchBit, Config.jumpOffset]
  omega

/-- The classes with `imm32` where source and destination are the same register. -/
theorem immEntries_of_sameRegister {raw : RawInstr} (h : raw.cls ∈ [RawClass.isubR, .imulR, .ixorR, .irorR, .irolR]) :
    immEntries raw = if raw.src = raw.dst then [raw.imm32] else [] := by
  cases hcls : raw.cls <;> simp [hcls] at h <;> simp only [immEntries, hcls]

/-- The classes that always have `imm32`: the loads, ISTORE and CFROUND. -/
theorem immEntries_of_always {raw : RawInstr}
    (h : raw.cls ∈
      [RawClass.iaddM, .isubM, .imulM, .imulhM, .ismulhM, .ixorM, .faddM, .fsubM, .fdivM, .istore, .cfround]) :
    immEntries raw = [raw.imm32] := by
  cases hcls : raw.cls <;> simp [hcls] at h <;> simp only [immEntries, hcls]

theorem immEntries_of_never {raw : RawInstr}
    (h : raw.cls ∈ [RawClass.imulhR, .ismulhR, .inegR, .iswapR, .fswapR, .faddR, .fsubR, .fscalR, .fmulR, .fsqrtR]) :
    immEntries raw = [] := by
  cases hcls : raw.cls <;> simp [hcls] at h <;> simp only [immEntries, hcls]

/-! ### The placement search (R223) -/

/-- The search ends without a cycle only where every one it looked at lacked room. -/
theorem lt_of_findCycle_eq_none {w need fuel cyc m : Nat} {used : List (Nat × Nat)}
    (h : findCycle w used need fuel cyc = none) (hlow : cyc ≤ m) (hhigh : m < cyc + fuel) :
    w < usedAt used m + need := by
  induction fuel generalizing cyc with
  | zero => omega
  | succ fuel ih =>
    rw [findCycle] at h
    split at h
    · cases h
    · next hroom =>
      rcases Nat.eq_or_lt_of_le hlow with rfl | hlt
      · exact Nat.not_le.mp hroom
      · exact ih h hlt (by omega)

/-- A cycle in use holds a placed instruction. -/
theorem exists_placed_of_lanesPlaced_pos {w : Nat} {instrs : List Instr} {placed : List Placed} {m : Nat}
    (h : 0 < lanesPlaced w instrs placed m) : ∃ q ∈ placed, q.cycle = m := by
  by_contra hnone
  have hfilter : (instrs.zip placed).filter (fun e => e.2.cycle == m) = [] := by
    refine List.filter_eq_nil_iff.mpr fun e he hm => hnone ⟨e.2, (List.of_mem_zip he).2, by simpa using hm⟩
  simp [lanesPlaced, hfilter] at h

/-- Fewer instructions are placed than there are cycles looked at, and each keeps at most one of them busy. -/
theorem LanesInv.findCycle_isSome {w : Nat} {instrs : List Instr} {c : Compiler} (h : LanesInv w instrs c)
    {need fuel : Nat} (cyc : Nat) (hneed : need ≤ w) (hfuel : c.placed.length < fuel) :
    ∃ m, findCycle w c.used need fuel cyc = some m := by
  refine Option.ne_none_iff_exists'.mp fun hnone => ?_
  have hbusy : Finset.Ico cyc (cyc + fuel) ⊆ (c.placed.map (·.cycle)).toFinset := by
    intro m hm
    obtain ⟨hlow, hhigh⟩ := Finset.mem_Ico.mp hm
    have hfull := lt_of_findCycle_eq_none hnone hlow hhigh
    rw [h.counted m] at hfull
    obtain ⟨q, hq, hqm⟩ := exists_placed_of_lanesPlaced_pos (show 0 < lanesPlaced w instrs c.placed m by omega)
    exact List.mem_toFinset.mpr (List.mem_map.mpr ⟨q, hq, hqm⟩)
  have hcard := (Finset.card_le_card hbusy).trans (List.toFinset_card_le _)
  rw [Nat.card_Ico, List.length_map] at hcard
  omega

theorem laneNeed_le {w : Nat} (hw : 1 ≤ w) (i : Instr) : laneNeed w i ≤ w := by
  unfold laneNeed
  split
  · next h => simpa using (Bool.and_eq_true_iff.mp h).2
  · exact hw

theorem one_le_w_of_ok {p : Params} (hok : p.ok = true) : 1 ≤ p.w := by
  have hw := (p.ok_iff.mp hok).1
  simp only [List.mem_cons, List.not_mem_nil, or_false] at hw
  omega

/-- Past the capacity pass 2 faults at the instruction (R220). -/
theorem Compiler.pass2_immOverflow (p : Params) (c : Compiler) {imm : List Word32} (k : Nat) {raw : RawInstr}
    (h : 192 < imm.length + (immEntries raw).length) : c.pass2 p imm k raw = .error (.immOverflow k) :=
  if_pos h

/-- On a legal schedule of fewer instructions than the search has cycles, pass 2 places the instruction (R223). -/
theorem ScheduleInv.pass2_ok {p : Params} {instrs : List Instr} {c : Compiler} (h : ScheduleInv p.w instrs c)
    (hok : p.ok = true) (hlen : instrs.length < 257) {imm : List Word32} {raw : RawInstr}
    (hcap : imm.length + (immEntries raw).length ≤ 192) :
    ∃ d cyc, c.pass2 p imm instrs.length raw = .ok (d, imm ++ immEntries raw) ∧
      d.placed = c.placed ++ [⟨cyc, if immEntries raw = [] then 0 else imm.length⟩] := by
  have hw := one_le_w_of_ok hok
  obtain ⟨cyc, hfind⟩ := h.lanes.findCycle_isSome (fuel := Config.fpSearchCap + 1)
    (c.earliest instrs.length (lower raw (c.cregAt instrs.length)))
    (laneNeed_le hw (lower raw (c.cregAt instrs.length))) (h.tracker.sameLength ▸ hlen)
  refine ⟨c.place p instrs.length (lower raw (c.cregAt instrs.length)) cyc
    (if (immEntries raw).isEmpty then 0 else imm.length), cyc, ?_, ?_⟩
  · simp only [Compiler.pass2, hfind]
    exact if_neg (Nat.not_lt.mpr hcap)
  · simp only [Compiler.place_placed, List.isEmpty_iff]

/-- Settles O59: the capacity check, the search, and the entries class by class. -/
theorem immediatesAndPlacement : Obligations.ImmediatesAndPlacement := by
  refine ⟨fun p c instrs imm raw hok h hlen => ⟨c.pass2_immOverflow p _, h.pass2_ok hok hlen⟩, fun raw =>
    ⟨fun hcls => by simp only [immEntries, hcls], immEntries_of_sameRegister, immEntries_of_always,
      immEntries_imulRcp_degenerate, immEntries_imulRcp, fun hcls => ?_, immEntries_of_never⟩⟩
  obtain ⟨htarget, hbit, hzero⟩ := bitField_cbranchEntry (cbranchBit_lt raw) (target := 0) (by decide)
  exact ⟨_, lowWord_eq_extractLsb' (cbranchImm raw) ▸ immEntries_cbranch hcls, hzero, hbit, htarget⟩

end Sys2Proof.Machine
end

section
/-! SUPPORT. The compile engine's invariant, for O60: every step keeps it. A compile step goes from one stage to the
next with what pass 1 (R202–R207) or pass 2 (R220–R225) added; every other step ends outside the compile's passes. -/

namespace Sys2Proof.Machine

open Sys2Proof.Config (Params)

/-! ### The raw program (R91, R123) -/

/-- Under an accepted frequency table every raw word has a class. -/
theorem State.exists_rawInstr {s : State} (hok : s.params.ok = true) (k : Nat) : ∃ raw, s.rawInstr k = some raw := by
  obtain ⟨-, hlength, hsum, -⟩ := s.params.ok_iff.mp hok
  obtain ⟨c, cls, raw, -, -, -, -, hraw, -⟩ :=
    rawDecodingIsUnique s.params.freq (s.entropy.readWord (Config.entropySeedBytes + 8 * k)) hlength hsum
  exact ⟨raw, hraw⟩

theorem State.rawProgram_eq_map {s : State} (hok : s.params.ok = true) :
    ∃ g : Nat → RawInstr, (∀ k, s.rawInstr k = some (g k)) ∧
      s.rawProgram = (List.range Config.programSize).map g := by
  obtain ⟨g, hg⟩ := Classical.skolem.mp (State.exists_rawInstr hok)
  refine ⟨g, hg, ?_⟩
  rw [State.rawProgram, funext hg]
  exact congrFun List.filterMap_eq_map _

theorem State.length_rawProgram {s : State} (hok : s.params.ok = true) :
    s.rawProgram.length = Config.programSize := by
  obtain ⟨g, -, hprogram⟩ := State.rawProgram_eq_map hok
  rw [hprogram, List.length_map, List.length_range]

theorem State.getElem?_rawProgram {s : State} (hok : s.params.ok = true) {k : Nat} (hk : k < Config.programSize) :
    s.rawProgram[k]? = s.rawInstr k := by
  obtain ⟨g, hg, hprogram⟩ := State.rawProgram_eq_map hok
  rw [hprogram, hg, List.getElem?_map, List.getElem?_range hk]
  rfl

theorem State.rawInstr_congr {s t : State} (entropy : t.entropy = s.entropy) (params : t.params = s.params) :
    t.rawInstr = s.rawInstr := by
  funext k
  rw [State.rawInstr, State.rawInstr, entropy, params]

theorem State.rawProgram_congr {s t : State} (entropy : t.entropy = s.entropy) (params : t.params = s.params) :
    t.rawProgram = s.rawProgram := by
  rw [State.rawProgram, State.rawProgram, State.rawInstr_congr entropy params]

/-! ### What the invariant speaks of -/

theorem CompiledSoFar.congr {s t : State} {raws : List RawInstr} (h : CompiledSoFar s raws)
    (entropy : t.entropy = s.entropy) (params : t.params = s.params) (compiler : t.compiler = s.compiler)
    (imm : t.imm = s.imm) : CompiledSoFar t raws where
  program := State.rawInstr_congr entropy params ▸ h.program
  schedule := by rw [compiler, params]; exact h.schedule
  entries := imm ▸ h.entries
  capacity := imm ▸ h.capacity
  indices := compiler ▸ h.indices
  targets := compiler ▸ h.targets
  branches := compiler ▸ h.branches
  resolved := compiler ▸ h.resolved
  once := compiler ▸ h.once

theorem CompileInv.congr {s t : State} (h : CompileInv s) (entropy : t.entropy = s.entropy)
    (params : t.params = s.params) (compiler : t.compiler = s.compiler) (imm : t.imm = s.imm)
    (agent : t.agent = s.agent) : CompileInv t where
  pass1 i ha := by
    rw [imm, compiler, params, State.rawProgram_congr entropy params]
    exact h.pass1 i (agent ▸ ha)
  pass2 k ha := by
    obtain ⟨hk, hbranches, hso⟩ := h.pass2 k (agent ▸ ha)
    rw [compiler, params, State.rawProgram_congr entropy params]
    exact ⟨hk, hbranches, hso.congr entropy params compiler imm⟩
  emit ha := by
    obtain ⟨hbranches, hso⟩ := h.emit (agent ▸ ha)
    rw [compiler, params, State.rawProgram_congr entropy params]
    exact ⟨hbranches, hso.congr entropy params compiler imm⟩

theorem CompileInv.raise {s : State} (h : CompileInv s) (rec : FaultRecord) : CompileInv (s.raise rec) := by
  rw [State.raise_only_fault s rec]
  exact h.congr rfl rfl rfl rfl rfl

/-- Before the decoder and outside a compile the invariant asks nothing. -/
theorem CompileInv.of_not_passing {t : State} (h : ∀ stage, t.agent = .compile stage → stage = .decode) :
    CompileInv t where
  pass1 _ ha := nomatch h _ ha
  pass2 _ ha := nomatch h _ ha
  emit ha := nomatch h _ ha

theorem CompileInv.of_pass1 {t : State} {i : Nat} (agent : t.agent = .compile (.pass1 i))
    (h : i < Config.programSize ∧ t.imm = [] ∧ t.compiler = passOneAfter t.params t.rawProgram i) : CompileInv t where
  pass1 j ha := by
    obtain rfl : i = j := by simpa [agent] using ha
    exact h
  pass2 _ ha := by simp [agent] at ha
  emit ha := by simp [agent] at ha

theorem CompileInv.of_pass2 {t : State} {k : Nat} (agent : t.agent = .compile (.pass2 k))
    (h : k < Config.programSize ∧
      t.compiler.branches = (passOneAfter t.params t.rawProgram Config.programSize).branches ∧
      CompiledSoFar t (t.rawProgram.take k)) : CompileInv t where
  pass1 _ ha := by simp [agent] at ha
  pass2 j ha := by
    obtain rfl : k = j := by simpa [agent] using ha
    exact h
  emit ha := by simp [agent] at ha

theorem CompileInv.of_emit {t : State} (agent : t.agent = .compile .emit)
    (h : t.compiler.branches = (passOneAfter t.params t.rawProgram Config.programSize).branches ∧
      CompiledSoFar t t.rawProgram) : CompileInv t where
  pass1 _ ha := by simp [agent] at ha
  pass2 _ ha := by simp [agent] at ha
  emit _ := h

theorem CompileInv.of_interpret {t : State} (h : t.agent = .interpret) : CompileInv t :=
  .of_not_passing fun _ ha => by simp [h] at ha

/-! ### Pass 1 (R202–R207) -/

/-- Examining one more instruction (R202). -/
theorem passOneAfter_succ (p : Params) {raws : List RawInstr} {k : Nat} {raw : RawInstr} (h : raws[k]? = some raw) :
    passOneAfter p raws (k + 1) = (passOneAfter p raws k).pass1 p k raw := by
  simp only [passOneAfter, h]

/-- When pass 1 has examined the whole program, pass 2 starts with nothing placed (R200). -/
theorem CompiledSoFar.start {s : State} {raws : List RawInstr} (p : Params) {k : Nat} (hk : k ≤ raws.length)
    (imm : s.imm = []) (compiler : s.compiler = passOneAfter p raws k) : CompiledSoFar s [] := by
  have hinv := passOneAfter_inv p raws hk
  rw [← compiler] at hinv
  have hnone {m : Nat} {raw : RawInstr} (h : ([] : List RawInstr)[m]? = some raw) : False := by simp at h
  exact
    { program := fun _ _ h => (hnone h).elim
      schedule := by
        rw [hinv.untouched]
        exact ScheduleInv.initial _ _ _
      entries := imm
      capacity := by
        rw [imm]
        exact Nat.zero_le _
      indices := fun _ _ _ h => (hnone h).elim
      targets := fun b hb => (hinv.ranges b hb).1
      branches := fun _ _ _ h => (hnone h).elim
      resolved := fun _ _ h => (hnone h).elim
      once := hinv.once }

/-- The step of pass 1 on raw instruction `i` (R200; log 8). -/
theorem CompileInv.pass1_step {s : State} {i : Nat} {raw : RawInstr} (h : CompileInv s) (hok : s.params.ok = true)
    (agent : s.agent = .compile (.pass1 i)) (hraw : s.rawInstr i = some raw) :
    CompileInv { s with
      compiler := s.compiler.pass1 s.params i raw, agent := .compile (stageAfter i .pass1 (.pass2 0)) } := by
  obtain ⟨hi, himm, hcompiler⟩ := h.pass1 i agent
  have hlength := State.length_rawProgram hok
  have hnext : s.compiler.pass1 s.params i raw = passOneAfter s.params s.rawProgram (i + 1) := by
    rw [hcompiler, passOneAfter_succ _ ((State.getElem?_rawProgram hok hi).trans hraw)]
  rw [hnext]
  by_cases hlast : i + 1 < Config.programSize
  · rw [stageAfter, if_pos hlast]
    exact .of_pass1 rfl ⟨hlast, himm, rfl⟩
  · rw [stageAfter, if_neg hlast]
    have hend : i + 1 = Config.programSize := by omega
    rw [hend]
    exact .of_pass2 rfl ⟨by decide, rfl, CompiledSoFar.start s.params (Nat.le_of_eq hlength.symm) himm rfl⟩

/-! ### Pass 2 (R220–R225) -/

theorem loweredProgram_congr {c d : Compiler} (raws : List RawInstr) (h : d.branches = c.branches) :
    loweredProgram d raws = loweredProgram c raws := by
  simp only [loweredProgram, Compiler.cregAt, h]

theorem loweredProgram_concat (c : Compiler) (raws : List RawInstr) (raw : RawInstr) :
    loweredProgram c (raws ++ [raw]) = loweredProgram c raws ++ [lower raw (c.cregAt raws.length)] :=
  List.mapIdx_concat

@[simp] theorem length_loweredProgram (c : Compiler) (raws : List RawInstr) :
    (loweredProgram c raws).length = raws.length :=
  List.length_mapIdx

theorem entriesOf_append (l m : List RawInstr) : entriesOf (l ++ m) = entriesOf l ++ entriesOf m := by
  simp [entriesOf]

theorem entriesOf_concat (raws : List RawInstr) (raw : RawInstr) :
    entriesOf (raws ++ [raw]) = entriesOf raws ++ immEntries raw := by
  simp [entriesOf]

/-- Placing the next raw instruction (R220): its entries follow those before it, and its index is the first of them. -/
theorem CompiledSoFar.pass2 {s t : State} {raws : List RawInstr} {raw : RawInstr} (h : CompiledSoFar s raws)
    (hok : s.params.ok = true) (hraw : s.rawInstr raws.length = some raw)
    (hplaced : s.compiler.pass2 s.params s.imm raws.length raw = .ok (t.compiler, t.imm))
    (entropy : t.entropy = s.entropy) (params : t.params = s.params)
    (hbranch : ∀ b ∈ s.compiler.branches, b.idx = raws.length → raw.cls = .cbranch)
    (hresolved : raw.cls = .cbranch → ∃ b ∈ s.compiler.branches, b.idx = raws.length) :
    CompiledSoFar t (raws ++ [raw]) := by
  have hschedule := h.schedule.pass2 hok (by rw [length_loweredProgram]; exact hplaced)
  obtain ⟨cyc, hcap, -, hcompiler, himm⟩ := Compiler.pass2_cases hplaced
  have hbranches : t.compiler.branches = s.compiler.branches := by rw [hcompiler, Compiler.place_branches]
  have hlength : raws.length = s.compiler.placed.length := by
    rw [← h.schedule.tracker.sameLength, length_loweredProgram]
  constructor
  case program =>
    intro k raw' hk
    rw [State.rawInstr_congr entropy params]
    rcases getElem?_concat_eq_some hk with ⟨hk, -⟩ | ⟨rfl, rfl⟩
    · exact h.program k raw' hk
    · exact hraw
  case schedule =>
    rw [params, loweredProgram_congr _ hbranches, loweredProgram_concat, ← length_loweredProgram s.compiler raws]
    exact hschedule
  case entries => rw [himm, entriesOf_concat, h.entries]
  case capacity =>
    rw [himm, List.length_append]
    exact hcap
  case indices =>
    intro k raw' q hk hq
    rw [hcompiler, Compiler.place_placed] at hq
    rcases getElem?_concat_eq_some hk with ⟨hk, hlt⟩ | ⟨rfl, rfl⟩
    · rw [List.getElem?_append_left (hlength ▸ hlt)] at hq
      rw [h.indices k raw' q hk hq, List.take_append_of_le_length (Nat.le_of_lt hlt)]
    · rw [hlength, List.getElem?_concat_length] at hq
      cases hq
      rw [List.take_left, ← h.entries]
      simp only [List.isEmpty_iff]
  case targets =>
    rw [hbranches]
    exact h.targets
  case branches =>
    rw [hbranches]
    intro b hb raw' hk
    rcases getElem?_concat_eq_some hk with ⟨hk, -⟩ | ⟨hidx, rfl⟩
    · exact h.branches b hb raw' hk
    · exact hbranch b hb hidx
  case resolved =>
    rw [hbranches]
    intro k raw' hk hcls
    rcases getElem?_concat_eq_some hk with ⟨hk, -⟩ | ⟨rfl, rfl⟩
    · exact h.resolved k raw' hk hcls
    · exact hresolved hcls
  case once =>
    rw [hbranches]
    exact h.once

/-- The step of pass 2 on raw instruction `k` (R200; log 8). -/
theorem CompileInv.pass2_step {s : State} {k : Nat} {raw : RawInstr} {c : Compiler} {imm : List Word32}
    (h : CompileInv s) (hok : s.params.ok = true) (agent : s.agent = .compile (.pass2 k))
    (hraw : s.rawInstr k = some raw) (hplaced : s.compiler.pass2 s.params s.imm k raw = .ok (c, imm)) :
    CompileInv { s with compiler := c, imm := imm, agent := .compile (stageAfter k .pass2 .emit) } := by
  obtain ⟨hk, hbranches, hso⟩ := h.pass2 k agent
  have hlength := State.length_rawProgram hok
  have hget := (State.getElem?_rawProgram hok hk).trans hraw
  have htake : s.rawProgram.take (k + 1) = s.rawProgram.take k ++ [raw] := by
    rw [List.take_add_one, hget, Option.toList_some]
  have htakeLength : (s.rawProgram.take k).length = k := by rw [List.length_take]; omega
  have hinv := passOneAfter_inv s.params s.rawProgram (Nat.le_of_eq hlength.symm)
  have hnext (a : Agent) :
      CompiledSoFar { s with compiler := c, imm := imm, agent := a } (s.rawProgram.take (k + 1)) := by
    rw [htake]
    refine hso.pass2 hok (by rwa [htakeLength]) (by rwa [htakeLength]) rfl rfl (fun b hb hidx => ?_) fun hcls => ?_
    · obtain ⟨-, raw', hraw', hcls⟩ := hinv.branches b (hbranches ▸ hb)
      rw [hidx, htakeLength, hget] at hraw'
      rwa [Option.some.inj hraw']
    · rw [htakeLength, hbranches]
      exact hinv.resolved k raw hk hget hcls
  obtain ⟨cyc, -, -, hc, -⟩ := Compiler.pass2_cases hplaced
  have hbranches' : c.branches = (passOneAfter s.params s.rawProgram Config.programSize).branches := by
    rw [hc, Compiler.place_branches, hbranches]
  by_cases hlast : k + 1 < Config.programSize
  · rw [stageAfter, if_pos hlast]
    exact .of_pass2 rfl ⟨hlast, hbranches', hnext _⟩
  · rw [stageAfter, if_neg hlast]
    have hwhole := hnext (.compile .emit)
    rw [List.take_of_length_le (by omega)] at hwhole
    exact .of_emit rfl ⟨hbranches', hwhole⟩

/-! ### Every step -/

theorem CompileInv.compileStep {s t : State} {stage : CompileStage} (h : CompileInv s) (hok : s.params.ok = true)
    (agent : s.agent = .compile stage) (hstep : s.compileStep stage = .next t) : CompileInv t := by
  rcases State.compileStep_cases hstep with ⟨-, rfl⟩ | ⟨i, raw, rfl, hraw, rfl⟩ | ⟨i, raw, rec, -, -, -, rfl⟩ |
    ⟨k, raw, c, imm, rfl, hraw, hplaced, rfl⟩ | ⟨rec, -, -, rfl⟩ | ⟨prog, imm, -, -, rfl⟩
  · exact .of_pass1 rfl ⟨by decide, rfl, rfl⟩
  · exact h.pass1_step hok agent hraw
  · exact h.raise rec
  · exact h.pass2_step hok agent hraw hplaced
  · exact h.raise rec
  · exact .of_host rfl

theorem CompileInv.hostStep {s t : State} (h : CompileInv s) (hstep : s.hostStep = .next t) : CompileInv t := by
  obtain ⟨cmd, queue, -, hcmd⟩ := State.hostStep_cases hstep
  rcases State.takeCmd_cases hcmd with ⟨m, -, -, rfl⟩ | ⟨m, -, -, rfl⟩ | ⟨m, -, -, rfl⟩ |
    ⟨k, first, last, -, -, -, -, rfl⟩
  · exact .of_host rfl
  · exact h.congr rfl rfl rfl rfl rfl
  · exact .of_not_passing fun _ ha => (Agent.compile.inj ha).symm
  · exact .of_interpret rfl

theorem CompileInv.dispatchStep {s t : State} (h : CompileInv s) (hstep : s.dispatchStep = .next t) :
    CompileInv t := by
  rcases State.dispatchStep_cases hstep with ⟨-, hg⟩ | ⟨-, rfl⟩ | ⟨-, rfl⟩
  · rcases State.groupStep_cases hg with ⟨rec, -, rfl⟩ | ⟨slots, rec, -, -, rfl⟩ |
      ⟨slots, results, q, p, x, -, -, -, rfl⟩ | ⟨slots, results, -, -, -, rfl⟩
    · exact h.raise rec
    · exact h.raise rec
    · exact h.raise _
    · rw [s.groupEffect_frame results slots.length]
      exact h.congr rfl rfl rfl rfl rfl
  · exact h.congr rfl rfl rfl rfl rfl
  · exact h.raise _

/-- Every step keeps the compile engine's invariant. -/
theorem CompileInv.step {s t : State} (h : CompileInv s) (hstep : step s = .next t) : CompileInv t := by
  obtain ⟨hok, -, hs⟩ := step_cases hstep
  rcases hs with ⟨-, hs⟩ | ⟨stage, agent, hs⟩ | ⟨agent, -, hs⟩ | ⟨-, -, hs⟩ | ⟨-, -, hs⟩ | ⟨-, -, hs⟩
  · exact h.hostStep hs
  · exact h.compileStep hok agent hs
  · rcases State.seedStep_cases hs with ⟨l, -, -, rfl⟩ | ⟨-, rfl⟩
    · exact h.raise _
    · exact .of_interpret agent
  · exact h.dispatchStep hs
  · rcases State.writebackStep_cases hs with ⟨l, -, -, rfl⟩ | ⟨a, -, rfl⟩ | ⟨-, -, rfl⟩
    · exact h.raise _
    · exact h.raise _
    · refine .of_not_passing fun stage ha => ?_
      rw [State.endRound_writtenBack] at ha
      by_cases hend : s.numIter ≤ s.round + 1 <;> simp [hend] at ha
  · exact h.hostStep hs

end Sys2Proof.Machine
end

section
/-! SUPPORT. Emission, for O60: the sort's order, what each placed instruction becomes on its way to the sort, and how
many share a cycle. -/

namespace Sys2Proof

/-! ### Instructions with other fields (R125) -/

theorem Instr.ofOpcode_opcode (i : Instr) (w : Fields) : Instr.ofOpcode i.opcode w = some (i.withFields w) := by
  cases h : Instr.ofOpcode i.opcode w with
  | none => exact absurd i.opcode_lt (Nat.not_lt.mpr (Instr.ofOpcode_eq_none_iff.mp h))
  | some j => rw [Instr.withFields, h, Option.getD_some]

@[simp] theorem Instr.opcode_withFields (i : Instr) (w : Fields) : (i.withFields w).opcode = i.opcode :=
  (Instr.ofOpcode_eq_some_iff.mp (i.ofOpcode_opcode w)).1

@[simp] theorem Instr.fields_withFields (i : Instr) (w : Fields) : (i.withFields w).fields = w :=
  (Instr.ofOpcode_eq_some_iff.mp (i.ofOpcode_opcode w)).2

@[simp] theorem Instr.withFields_withFields (i : Instr) (w v : Fields) :
    (i.withFields w).withFields v = i.withFields v :=
  Option.some.inj (by rw [← Instr.ofOpcode_opcode, ← Instr.ofOpcode_opcode, Instr.opcode_withFields])

@[simp] theorem Instr.isFloat_withFields (i : Instr) (w : Fields) : (i.withFields w).isFloat = i.isFloat := by
  rw [Instr.isFloat, Instr.isFloat, Instr.opcode_withFields]

end Sys2Proof

namespace Sys2Proof.Machine

/-! ### The sort (R226) -/

/-- The order of emission (R226): by cycle, the floating ones of a cycle first, and otherwise by raw index. -/
def EmissionLt (x y : Emitted) : Prop :=
  x.cycle < y.cycle ∨ (x.cycle = y.cycle ∧
    ((x.instr.isFloat = true ∧ y.instr.isFloat = false) ∨ (x.instr.isFloat = y.instr.isFloat ∧ x.idx < y.idx)))

theorem emittedBefore_iff (x y : Emitted) : emittedBefore x y = true ↔ EmissionLt x y := by
  simp [emittedBefore, EmissionLt]

/-- The order of emission is lexicographic. -/
def Emitted.key (x : Emitted) : Nat ×ₗ Bool ×ₗ Nat := toLex (x.cycle, toLex (!x.instr.isFloat, x.idx))

theorem emissionLt_iff_key_lt (x y : Emitted) : EmissionLt x y ↔ x.key < y.key := by
  have hfloat (a b : Bool) : (!a) < (!b) ↔ a = true ∧ b = false := by revert a b; decide
  rw [Emitted.key, Emitted.key, Prod.Lex.toLex_lt_toLex, Prod.Lex.toLex_lt_toLex, hfloat, Bool.not_inj_iff]
  rfl

theorem EmissionLt.trans {x y z : Emitted} (hxy : EmissionLt x y) (hyz : EmissionLt y z) : EmissionLt x z := by
  rw [emissionLt_iff_key_lt] at *
  exact hxy.trans hyz

theorem EmissionLt.of_not {x y : Emitted} (h : ¬EmissionLt x y) (hidx : x.idx ≠ y.idx) : EmissionLt y x := by
  rw [emissionLt_iff_key_lt] at *
  refine lt_of_le_of_ne (not_lt.mp h) fun hkey => hidx ?_
  exact congrArg (fun key => (ofLex (ofLex key).2).2) hkey.symm

theorem insertEmitted_perm (x : Emitted) (l : List Emitted) : (insertEmitted x l).Perm (x :: l) := by
  induction l with
  | nil => exact .refl _
  | cons y l ih =>
    rw [insertEmitted]
    split
    · exact .refl _
    · exact (ih.cons y).trans (.swap x y l)

theorem sortEmitted_perm (l : List Emitted) : (sortEmitted l).Perm l := by
  induction l with
  | nil => exact .refl _
  | cons x l ih => exact (insertEmitted_perm x _).trans (ih.cons x)

theorem insertEmitted_pairwise {x : Emitted} {l : List Emitted} (h : l.Pairwise EmissionLt)
    (hidx : ∀ y ∈ l, x.idx ≠ y.idx) : (insertEmitted x l).Pairwise EmissionLt := by
  induction l with
  | nil => exact List.pairwise_singleton _ _
  | cons y l ih =>
    obtain ⟨hy, hl⟩ := List.pairwise_cons.mp h
    rw [insertEmitted]
    split
    · next hxy =>
      rw [emittedBefore_iff] at hxy
      exact List.pairwise_cons.mpr ⟨List.forall_mem_cons.mpr ⟨hxy, fun z hz => hxy.trans (hy z hz)⟩, h⟩
    · next hxy =>
      rw [emittedBefore_iff] at hxy
      refine List.pairwise_cons.mpr ⟨fun z hz => ?_, ih hl fun z hz => hidx z (List.mem_cons_of_mem _ hz)⟩
      rcases List.mem_cons.mp ((insertEmitted_perm x l).mem_iff.mp hz) with rfl | hz
      · exact .of_not hxy (hidx y List.mem_cons_self)
      · exact hy z hz

/-- Instructions of different raw indices are sorted strictly. -/
theorem sortEmitted_pairwise {l : List Emitted} (h : (l.map (·.idx)).Nodup) :
    (sortEmitted l).Pairwise EmissionLt := by
  induction l with
  | nil => exact .nil
  | cons x l ih =>
    obtain ⟨hx, hl⟩ := List.nodup_cons.mp h
    refine insertEmitted_pairwise (ih hl) fun y hy hidx => hx ?_
    exact List.mem_map.mpr ⟨y, (sortEmitted_perm l).mem_iff.mp hy, hidx.symm⟩

/-! ### The placed instructions on their way to the sort -/

/-- Raw instruction `k`, placed as `q`, on its way to emission. -/
def Compiler.emittedOf (c : Compiler) (k : Nat) (raw : RawInstr) (q : Placed) : Emitted :=
  let i := lower raw (c.cregAt k)
  ⟨k, i.withFields { i.fields with immIdx := Fin.ofNat 256 q.immIdx }, q.cycle⟩

theorem State.getElem?_toEmit {s : State} {j m : Nat} {placed : List Placed} {x : Emitted}
    (h : (s.toEmit j placed)[m]? = some x) :
    ∃ raw q, s.rawInstr (j + m) = some raw ∧ placed[m]? = some q ∧ x = s.compiler.emittedOf (j + m) raw q := by
  induction placed generalizing j m with
  | nil => simp [State.toEmit] at h
  | cons q placed ih =>
    rw [State.toEmit] at h
    split at h
    · simp at h
    · next raw hraw =>
      cases m with
      | zero =>
        rw [List.getElem?_cons_zero] at h
        exact ⟨raw, q, hraw, rfl, (Option.some.inj h).symm⟩
      | succ m =>
        rw [List.getElem?_cons_succ] at h
        obtain ⟨raw', q', hraw', hq', hx⟩ := ih h
        rw [show j + 1 + m = j + (m + 1) by omega] at hraw' hx
        exact ⟨raw', q', hraw', hq', hx⟩

theorem State.length_toEmit {s : State} {j : Nat} {placed : List Placed}
    (h : ∀ m, m < placed.length → s.rawInstr (j + m) ≠ none) : (s.toEmit j placed).length = placed.length := by
  induction placed generalizing j with
  | nil => rfl
  | cons q placed ih =>
    rw [State.toEmit]
    split
    · next hnone => exact absurd hnone (h 0 (Nat.succ_pos _))
    · rw [List.length_cons, List.length_cons, ih fun m hm => ?_]
      rw [show j + 1 + m = j + (m + 1) by omega]
      exact h (m + 1) (Nat.succ_lt_succ hm)

theorem getElem?_loweredProgram (c : Compiler) {raws : List RawInstr} {k : Nat} {raw : RawInstr}
    (h : raws[k]? = some raw) : (loweredProgram c raws)[k]? = some (lower raw (c.cregAt k)) := by
  simp [loweredProgram, h]

theorem Compiler.cycleOf_of_placed {c : Compiler} {k : Nat} {q : Placed} (h : c.placed[k]? = some q) :
    c.cycleOf k = q.cycle := by
  simp [Compiler.cycleOf, h]

/-- The placed instructions in emission order. -/
def State.emitted (s : State) : List Emitted := sortEmitted (s.toEmit 0 s.compiler.placed)

/-- The floating ones of the raw instructions placed in a cycle (R226). -/
def floatInCycle (c : Compiler) (raws : List RawInstr) (cycle : Nat) : List Nat :=
  (inCycle c raws.length cycle).filter fun j => ((loweredProgram c raws)[j]?).elim false Instr.isFloat

section CompiledSoFar

variable {s : State} {raws : List RawInstr} (h : CompiledSoFar s raws)
include h

theorem CompiledSoFar.length_placed : s.compiler.placed.length = raws.length := by
  rw [← h.schedule.tracker.sameLength, length_loweredProgram]

theorem CompiledSoFar.length_toEmit : (s.toEmit 0 s.compiler.placed).length = raws.length := by
  rw [State.length_toEmit fun m hm => ?_, h.length_placed]
  rw [h.length_placed] at hm
  rw [Nat.zero_add, h.program m _ (List.getElem?_eq_getElem hm)]
  exact Option.some_ne_none _

/-- In raw order the instruction at position `k` is raw instruction `k`, as it is placed. -/
theorem CompiledSoFar.getElem?_toEmit {k : Nat} {x : Emitted} (hx : (s.toEmit 0 s.compiler.placed)[k]? = some x) :
    ∃ raw q, raws[k]? = some raw ∧ s.compiler.placed[k]? = some q ∧ x = s.compiler.emittedOf k raw q := by
  have hk : k < raws.length := h.length_toEmit ▸ (List.getElem?_eq_some_iff.mp hx).1
  obtain ⟨raw, q, hraw, hq, hx⟩ := State.getElem?_toEmit hx
  rw [Nat.zero_add] at hraw hx
  have hget := List.getElem?_eq_getElem hk
  rw [h.program k _ hget] at hraw
  exact ⟨raw, q, by rw [hget, hraw], hq, hx⟩

theorem CompiledSoFar.map_idx_toEmit :
    (s.toEmit 0 s.compiler.placed).map (·.idx) = List.range raws.length := by
  refine List.ext_getElem (by rw [List.length_map, h.length_toEmit, List.length_range]) fun k hk _ => ?_
  rw [List.length_map] at hk
  obtain ⟨raw, q, -, -, hx⟩ := h.getElem?_toEmit (List.getElem?_eq_getElem hk)
  rw [List.getElem_map, hx, List.getElem_range]
  rfl

theorem CompiledSoFar.map_idx_emitted : (s.emitted.map (·.idx)).Perm (List.range raws.length) :=
  h.map_idx_toEmit ▸ (sortEmitted_perm _).map _

theorem CompiledSoFar.length_emitted : s.emitted.length = raws.length :=
  (sortEmitted_perm _).length_eq.trans h.length_toEmit

theorem CompiledSoFar.emitted_pairwise : s.emitted.Pairwise EmissionLt :=
  sortEmitted_pairwise (h.map_idx_toEmit ▸ List.nodup_range)

/-- An emitted instruction is its raw instruction's, as that is placed. -/
theorem CompiledSoFar.of_mem_emitted {x : Emitted} (hx : x ∈ s.emitted) :
    ∃ raw q, raws[x.idx]? = some raw ∧ s.compiler.placed[x.idx]? = some q ∧
      x = s.compiler.emittedOf x.idx raw q := by
  obtain ⟨k, hk⟩ := List.mem_iff_getElem?.mp ((sortEmitted_perm _).mem_iff.mp hx)
  obtain ⟨raw, q, hraw, hq, rfl⟩ := h.getElem?_toEmit hk
  exact ⟨raw, q, hraw, hq, rfl⟩

theorem CompiledSoFar.cycleOf_idx {x : Emitted} (hx : x ∈ s.emitted) : s.compiler.cycleOf x.idx = x.cycle := by
  obtain ⟨raw, q, -, hq, heq⟩ := h.of_mem_emitted hx
  rw [Compiler.cycleOf_of_placed hq, heq]
  rfl

theorem CompiledSoFar.isFloat_idx {x : Emitted} (hx : x ∈ s.emitted) :
    ((loweredProgram s.compiler raws)[x.idx]?).elim false Instr.isFloat = x.instr.isFloat := by
  obtain ⟨raw, q, hraw, -, heq⟩ := h.of_mem_emitted hx
  rw [getElem?_loweredProgram _ hraw, Option.elim_some, heq, Compiler.emittedOf, Instr.isFloat_withFields]

/-- The raw indices are in the order of emission. -/
theorem CompiledSoFar.order_pairwise :
    (s.emitted.map (·.idx)).Pairwise (EmittedBefore s.compiler (loweredProgram s.compiler raws)) := by
  refine List.pairwise_map.mpr (h.emitted_pairwise.imp_of_mem fun hx hy hxy => ?_)
  simp only [EmittedBefore, h.cycleOf_idx hx, h.cycleOf_idx hy, h.isFloat_idx hx, h.isFloat_idx hy]
  exact hxy

/-! ### The instructions of one cycle (R131, R226) -/

/-- Counting among the emitted instructions is counting among their raw indices. -/
theorem CompiledSoFar.length_filter_emitted {p : Emitted → Bool} {P : Nat → Bool}
    (hp : ∀ x ∈ s.emitted, p x = P x.idx) :
    (s.emitted.filter p).length = ((List.range raws.length).filter P).length := by
  rw [← (h.map_idx_emitted.filter P).length_eq, List.filter_map, List.length_map, List.filter_congr hp]
  rfl

theorem CompiledSoFar.length_group (cycle : Nat) :
    (s.emitted.filter fun y => y.cycle == cycle).length = (inCycle s.compiler raws.length cycle).length :=
  h.length_filter_emitted fun x hx => by rw [h.cycleOf_idx hx]

theorem CompiledSoFar.length_group_float (cycle : Nat) :
    ((s.emitted.filter fun y => y.cycle == cycle).filter fun y => y.instr.isFloat).length =
      (floatInCycle s.compiler raws cycle).length := by
  rw [floatInCycle, inCycle, List.filter_filter, List.filter_filter]
  exact h.length_filter_emitted fun x hx => by rw [h.cycleOf_idx hx, h.isFloat_idx hx]

end CompiledSoFar

/-- Counting in a list is counting its positions. -/
theorem length_filter_range {α : Type} {l : List α} {p : α → Bool} {P : Nat → Bool}
    (h : ∀ k x, l[k]? = some x → p x = P k) : ((List.range l.length).filter P).length = (l.filter p).length := by
  induction l using List.reverseRecOn with
  | nil => rfl
  | append_singleton l x ih =>
    have hlast : p x = P l.length := h l.length x List.getElem?_concat_length
    rw [List.length_append, List.length_singleton, List.range_succ, List.filter_append, List.filter_append,
      List.length_append, List.length_append, ih fun k y hk => h k y ?_]
    · cases hP : P l.length <;> simp [hlast, hP]
    · rw [List.getElem?_append_left (List.getElem?_eq_some_iff.mp hk).1, hk]

/-- Every instruction takes a lane, and a floating one two where there are two (R209). -/
theorem length_add_float_le_lanes (w : Nat) (l : List (Instr × Placed)) :
    l.length + (if 2 ≤ w then (l.filter fun e => e.1.isFloat).length else 0) ≤
      (l.map fun e => laneNeed w e.1).sum := by
  induction l with
  | nil => simp
  | cons e l ih =>
    rw [List.map_cons, List.sum_cons, List.length_cons, List.filter_cons, laneNeed]
    by_cases hw : 2 ≤ w <;> cases hfloat : e.1.isFloat <;> simp [hw] at ih ⊢ <;> omega

/-- A cycle's counts fit in a word's fields: at most `W` instructions, at most `W / 2` of them floating where `W` is
not 1 (R131, R209, R213). -/
theorem CompiledSoFar.inCycle_bounds {s : State} {raws : List RawInstr} (h : CompiledSoFar s raws)
    (hok : s.params.ok = true) (cycle : Nat) :
    (inCycle s.compiler raws.length cycle).length < 16 ∧
      (floatInCycle s.compiler raws cycle).length < 8 := by
  have hlength : ((loweredProgram s.compiler raws).zip s.compiler.placed).length = raws.length := by
    rw [List.length_zip, length_loweredProgram, h.length_placed, Nat.min_self]
  have hcycle (k : Nat) (e : Instr × Placed)
      (he : ((loweredProgram s.compiler raws).zip s.compiler.placed)[k]? = some e) :
      (e.2.cycle == cycle) = (s.compiler.cycleOf k == cycle) := by
    rw [Compiler.cycleOf_of_placed (List.getElem?_zip_eq_some.mp he).2]
  have hfloat (k : Nat) (e : Instr × Placed)
      (he : ((loweredProgram s.compiler raws).zip s.compiler.placed)[k]? = some e) :
      e.1.isFloat = ((loweredProgram s.compiler raws)[k]?).elim false Instr.isFloat := by
    rw [(List.getElem?_zip_eq_some.mp he).1, Option.elim_some]
  have hcount := length_filter_range hcycle
  have hcountFloat := length_filter_range fun k e he => congrArg₂ (· && ·) (hfloat k e he) (hcycle k e he)
  rw [hlength] at hcount hcountFloat
  rw [floatInCycle, inCycle, List.filter_filter, hcount, hcountFloat, ← List.filter_filter]
  have hlanes := length_add_float_le_lanes s.params.w
    (((loweredProgram s.compiler raws).zip s.compiler.placed).filter fun e => e.2.cycle == cycle)
  have hcapacity := h.schedule.lanes.capacity cycle
  rw [h.schedule.lanes.counted cycle, lanesPlaced] at hcapacity
  have hsub := List.length_filter_le (fun e : Instr × Placed => e.1.isFloat)
    (((loweredProgram s.compiler raws).zip s.compiler.placed).filter fun e => e.2.cycle == cycle)
  have hw := (s.params.ok_iff.mp hok).1
  simp only [List.mem_cons, List.not_mem_nil, or_false] at hw
  split at hlanes <;> omega

end Sys2Proof.Machine
end

section
/-! SUPPORT. Emission, O60: each word decodes to its instruction with its cycle's counts, and each CBRANCH's second
entry is written once, by its own branch, with the first word of its target's cycle. -/

namespace Sys2Proof.Machine

/-! ### The step (R226, R229, R230) -/

/-- The immediates with the branch targets filled in (R228). -/
def State.patchedImm (s : State) : List Word32 :=
  s.compiler.branches.foldl (patchTarget s.compiler s.emitted) s.imm

/-- A program of at most 256 instructions is emitted whole (R229). -/
theorem CompiledSoFar.step_emit {s : State} {raws : List RawInstr} (h : CompiledSoFar s raws)
    (hok : s.params.ok = true) (hf : s.fault = none) (agent : s.agent = .compile .emit) (hlen : raws.length ≤ 256) :
    step s =
      .next { s with prog := s.emitted.map (emitWord s.emitted), imm := s.patchedImm, agent := .host } := by
  have hemit : s.emitProgram = .ok (s.emitted.map (emitWord s.emitted), s.patchedImm) :=
    if_neg (Nat.not_lt.mpr (h.length_emitted ▸ hlen))
  simp only [step, hok, hf, State.agentStep, agent, State.compileStep, hemit, if_true]

/-! ### Immediate entries in program order (R220) -/

theorem length_entriesOf_take_le (raws : List RawInstr) {j k : Nat} (h : j ≤ k) :
    (entriesOf (raws.take j)).length ≤ (entriesOf (raws.take k)).length := by
  obtain ⟨rest, hrest⟩ := List.take_prefix_take_left (l := raws) h
  rw [← hrest, entriesOf_append, List.length_append]
  exact Nat.le_add_right _ _

theorem entriesOf_take_succ {raws : List RawInstr} {k : Nat} {raw : RawInstr} (h : raws[k]? = some raw) :
    entriesOf (raws.take (k + 1)) = entriesOf (raws.take k) ++ immEntries raw := by
  rw [List.take_add_one, h, Option.toList_some, entriesOf_concat]

/-- The entries of raw instruction `k` follow those of the instructions before it. -/
theorem getElem?_entriesOf {raws : List RawInstr} {k m : Nat} {raw : RawInstr} (h : raws[k]? = some raw)
    (hm : m < (immEntries raw).length) :
    (entriesOf raws)[(entriesOf (raws.take k)).length + m]? = (immEntries raw)[m]? := by
  have hsplit : entriesOf raws = entriesOf (raws.take k) ++ (immEntries raw ++ entriesOf (raws.drop (k + 1))) := by
    rw [← List.append_assoc, ← entriesOf_take_succ h, ← entriesOf_append, List.take_append_drop]
  rw [hsplit, List.getElem?_append_right (Nat.le_add_right _ _), Nat.add_sub_cancel_left,
    List.getElem?_append_left hm]

/-- The fields of the word of instruction `i`, placed as `q` (R131, R227). -/
def wordFields (c : Compiler) (raws : List RawInstr) (i : Instr) (q : Placed) : Fields :=
  { i.fields with
    immIdx := Fin.ofNat 256 q.immIdx
    n := Fin.ofNat 16 (inCycle c raws.length q.cycle).length
    nf := Fin.ofNat 8 (floatInCycle c raws q.cycle).length }

section CompiledSoFar

variable {s : State} {raws : List RawInstr} (h : CompiledSoFar s raws)
include h

/-- An index of an entry fits a word's field (R46). -/
theorem CompiledSoFar.immIdx_lt {k : Nat} {q : Placed} (hq : s.compiler.placed[k]? = some q) : q.immIdx < 256 := by
  have hk : k < raws.length := h.length_placed ▸ (List.getElem?_eq_some_iff.mp hq).1
  have hle := length_entriesOf_take_le raws (Nat.le_of_lt hk)
  have hcap := h.capacity
  rw [h.entries, Config.immCap] at hcap
  rw [List.take_length] at hle
  rw [h.indices k _ q (List.getElem?_eq_getElem hk) hq]
  split <;> omega

/-! ### The words (R131, R227) -/

/-- What is emitted for a raw instruction decodes to the instruction it becomes, with its own entry and its cycle's
counts. -/
theorem CompiledSoFar.decodeWord_emitWord {x : Emitted} (hx : x ∈ s.emitted) {raw : RawInstr} {q : Placed}
    (hraw : raws[x.idx]? = some raw) (hq : s.compiler.placed[x.idx]? = some q) :
    decodeWord (emitWord s.emitted x) =
      .ok ((lower raw (s.compiler.cregAt x.idx)).withFields
        (wordFields s.compiler raws (lower raw (s.compiler.cregAt x.idx)) q)) := by
  obtain ⟨raw', q', hraw', hq', heq⟩ := h.of_mem_emitted hx
  obtain rfl : raw' = raw := Option.some.inj (hraw'.symm.trans hraw)
  obtain rfl : q' = q := Option.some.inj (hq'.symm.trans hq)
  have hcycle : x.cycle = q'.cycle := congrArg Emitted.cycle heq
  have hinstr : x.instr = (lower raw' (s.compiler.cregAt x.idx)).withFields
      { (lower raw' (s.compiler.cregAt x.idx)).fields with immIdx := Fin.ofNat 256 q'.immIdx } :=
    congrArg Emitted.instr heq
  rw [emitWord, decodeWord_encodeWord, hinstr, Instr.withFields_withFields, Instr.fields_withFields, hcycle,
    h.length_group, h.length_group_float, wordFields]

/-- The word at position `m` of the program, for raw instruction `k` placed as `q`. -/
theorem CompiledSoFar.exists_word {m k : Nat} {i : Instr} {q : Placed}
    (hm : (s.emitted.map (·.idx))[m]? = some k) (hi : (loweredProgram s.compiler raws)[k]? = some i)
    (hq : s.compiler.placed[k]? = some q) :
    ∃ word, (s.emitted.map (emitWord s.emitted))[m]? = some word ∧
      decodeWord word = .ok (i.withFields (wordFields s.compiler raws i q)) := by
  rw [List.getElem?_map, Option.map_eq_some_iff] at hm
  obtain ⟨x, hx, rfl⟩ := hm
  have hmem := List.mem_of_getElem? hx
  obtain ⟨raw, -, hraw, -, -⟩ := h.of_mem_emitted hmem
  obtain rfl := Option.some.inj ((getElem?_loweredProgram _ hraw).symm.trans hi)
  refine ⟨emitWord s.emitted x, ?_, h.decodeWord_emitWord hmem hraw hq⟩
  rw [List.getElem?_map, hx, Option.map_some]

/-- The entry's index and the two counts fit in their fields. -/
theorem CompiledSoFar.wordFields_val (hok : s.params.ok = true) (i : Instr) {k : Nat} {q : Placed}
    (hq : s.compiler.placed[k]? = some q) :
    (wordFields s.compiler raws i q).immIdx.val = q.immIdx ∧
      (wordFields s.compiler raws i q).n.val = (inCycle s.compiler raws.length q.cycle).length ∧
      (wordFields s.compiler raws i q).nf.val = (floatInCycle s.compiler raws q.cycle).length := by
  obtain ⟨hn, hnf⟩ := h.inCycle_bounds hok q.cycle
  exact ⟨Nat.mod_eq_of_lt (h.immIdx_lt hq), Nat.mod_eq_of_lt hn, Nat.mod_eq_of_lt hnf⟩

end CompiledSoFar

/-! ### The branch targets (R228) -/

theorem getElem?_patchTarget_of_ne {c : Compiler} (all : List Emitted) (imm : List Word32) {b : Branch} {e : Nat}
    (h : ∀ q, c.placed[b.idx]? = some q → e ≠ q.immIdx + 1) : (patchTarget c all imm b)[e]? = imm[e]? := by
  unfold patchTarget
  split
  · rfl
  · next q hq => exact List.getElem?_modify_ne _ _ (h q hq).symm

/-- An entry that is no branch's second one is not written. -/
theorem getElem?_foldl_patchTarget_of_ne {c : Compiler} (all : List Emitted) {branches : List Branch}
    (imm : List Word32) {e : Nat} (h : ∀ b ∈ branches, ∀ q, c.placed[b.idx]? = some q → e ≠ q.immIdx + 1) :
    (branches.foldl (patchTarget c all) imm)[e]? = imm[e]? := by
  induction branches generalizing imm with
  | nil => rfl
  | cons b branches ih =>
    rw [List.foldl_cons, ih _ fun b' hb' => h b' (List.mem_cons_of_mem _ hb'),
      getElem?_patchTarget_of_ne all imm (h b List.mem_cons_self)]

/-- A second entry that no other branch shares is written once. -/
theorem getElem?_foldl_patchTarget {c : Compiler} (all : List Emitted) {branches : List Branch} (imm : List Word32)
    {b : Branch} {q : Placed} (hb : b ∈ branches) (hq : c.placed[b.idx]? = some q)
    (once : (branches.map (·.idx)).Nodup)
    (alone : ∀ b' ∈ branches, ∀ q', c.placed[b'.idx]? = some q' → b'.idx ≠ b.idx → q.immIdx ≠ q'.immIdx) :
    (branches.foldl (patchTarget c all) imm)[q.immIdx + 1]? =
      (imm[q.immIdx + 1]?).map (· + BitVec.ofNat 32 (firstWordOf all (c.cycleOf b.target))) := by
  obtain ⟨before, after, rfl⟩ := List.append_of_mem hb
  rw [List.map_append, List.map_cons] at once
  obtain ⟨-, hafter, hbefore⟩ := List.nodup_append.mp once
  have others {b' : Branch} (hb' : b' ∈ before ++ b :: after) (hne : b'.idx ≠ b.idx) (q' : Placed)
      (hq' : c.placed[b'.idx]? = some q') : q.immIdx + 1 ≠ q'.immIdx + 1 :=
    fun h => alone b' hb' q' hq' hne (Nat.succ.inj h)
  rw [List.foldl_append, List.foldl_cons, getElem?_foldl_patchTarget_of_ne]
  · have hpatch (imm' : List Word32) : patchTarget c all imm' b =
        imm'.modify (q.immIdx + 1) (· + BitVec.ofNat 32 (firstWordOf all (c.cycleOf b.target))) := by
      simp only [patchTarget, hq]
    rw [hpatch, List.getElem?_modify_eq, getElem?_foldl_patchTarget_of_ne]
    · rfl
    · intro b' hb'
      refine others (List.mem_append_left _ hb') ?_
      exact hbefore _ (List.mem_map_of_mem hb') _ List.mem_cons_self
  · intro b' hb'
    refine others (List.mem_append_right _ (List.mem_cons_of_mem _ hb')) fun hidx => ?_
    exact (List.nodup_cons.mp hafter).1 (hidx ▸ List.mem_map_of_mem hb')

theorem cbranchEntry_add (b target : Nat) : cbranchEntry b 0 + BitVec.ofNat 32 target = cbranchEntry b target := by
  rw [cbranchEntry, cbranchEntry, ← BitVec.ofNat_add, Nat.add_zero]

section CompiledSoFar

variable {s : State} {raws : List RawInstr} (h : CompiledSoFar s raws)
include h

/-- The first word of a cycle that a raw instruction is in. -/
theorem CompiledSoFar.firstWordOf_spec {target : Nat} (ht : target < raws.length) :
    ∃ k, (s.emitted.map (·.idx))[firstWordOf s.emitted (s.compiler.cycleOf target)]? = some k ∧
      s.compiler.cycleOf k = s.compiler.cycleOf target ∧
      ∀ m' k', m' < firstWordOf s.emitted (s.compiler.cycleOf target) → (s.emitted.map (·.idx))[m']? = some k' →
        s.compiler.cycleOf k' ≠ s.compiler.cycleOf target := by
  obtain ⟨x, hx, hidx⟩ := List.mem_map.mp (h.map_idx_emitted.mem_iff.mpr (List.mem_range.mpr ht))
  have hlt : firstWordOf s.emitted (s.compiler.cycleOf target) < s.emitted.length := by
    refine List.findIdx_lt_length_of_exists ⟨x, hx, ?_⟩
    rw [← h.cycleOf_idx hx, hidx, beq_self_eq_true]
  refine ⟨(s.emitted[firstWordOf s.emitted (s.compiler.cycleOf target)]).idx, ?_, ?_, fun m' k' hm' hk' => ?_⟩
  · rw [List.getElem?_map, List.getElem?_eq_getElem hlt]
    rfl
  · rw [h.cycleOf_idx (List.getElem_mem hlt)]
    exact beq_iff_eq.mp (List.findIdx_getElem (w := hlt))
  · rw [List.getElem?_map, Option.map_eq_some_iff] at hk'
    obtain ⟨y, hy, rfl⟩ := hk'
    rw [h.cycleOf_idx (List.mem_of_getElem? hy)]
    obtain ⟨hlen, rfl⟩ := List.getElem?_eq_some_iff.mp hy
    have hnot := List.not_of_lt_findIdx hm'
    simpa using hnot

/-- A CBRANCH's own entries are before those of every later one. -/
theorem CompiledSoFar.immIdx_lt_of_cbranch {j k : Nat} {raw raw' : RawInstr} {q q' : Placed} (hjk : j < k)
    (hraw : raws[j]? = some raw) (hcls : raw.cls = .cbranch) (hq : s.compiler.placed[j]? = some q)
    (hraw' : raws[k]? = some raw') (hcls' : raw'.cls = .cbranch) (hq' : s.compiler.placed[k]? = some q') :
    q.immIdx < q'.immIdx := by
  have hle := length_entriesOf_take_le raws (Nat.succ_le_of_lt hjk)
  rw [Nat.succ_eq_add_one, entriesOf_take_succ hraw, List.length_append, immEntries_cbranch hcls] at hle
  rw [h.indices j raw q hraw hq, h.indices k raw' q' hraw' hq', immEntries_cbranch hcls, immEntries_cbranch hcls',
    if_neg (List.cons_ne_nil _ _), if_neg (List.cons_ne_nil _ _)]
  simp only [List.length_cons] at hle
  omega

/-- Each CBRANCH's second entry takes its target's word (R228). -/
theorem CompiledSoFar.getElem?_patchedImm {b : Branch} {q : Placed} {raw : RawInstr}
    (hb : b ∈ s.compiler.branches) (hq : s.compiler.placed[b.idx]? = some q) (hraw : raws[b.idx]? = some raw) :
    s.patchedImm[q.immIdx + 1]? =
      some (cbranchEntry (cbranchBit raw) (firstWordOf s.emitted (s.compiler.cycleOf b.target))) := by
  have hcls := h.branches b hb raw hraw
  have hentry : s.imm[q.immIdx + 1]? = some (cbranchEntry (cbranchBit raw) 0) := by
    rw [h.entries, h.indices b.idx raw q hraw hq, immEntries_cbranch hcls, if_neg (List.cons_ne_nil _ _),
      getElem?_entriesOf hraw (by rw [immEntries_cbranch hcls]; exact Nat.one_lt_two), immEntries_cbranch hcls]
    rfl
  rw [State.patchedImm, getElem?_foldl_patchTarget s.emitted s.imm hb hq h.once fun b' hb' q' hq' hne => ?_, hentry,
    Option.map_some, cbranchEntry_add]
  have hraw' := List.getElem?_eq_getElem (h.length_placed ▸ (List.getElem?_eq_some_iff.mp hq').1)
  have hcls' := h.branches b' hb' _ hraw'
  rcases Nat.lt_or_gt_of_ne hne with hlt | hlt
  · exact (h.immIdx_lt_of_cbranch hlt hraw' hcls' hq' hraw hcls hq).ne'
  · exact (h.immIdx_lt_of_cbranch hlt hraw hcls hq hraw' hcls' hq').ne

end CompiledSoFar

/-- Settles O60: the emission step word by word and entry by entry, the invariant it starts from, and the sort. -/
theorem emissionOrder : Obligations.EmissionOrder := by
  refine ⟨fun s raws hok hf agent h hlen => ?_, fun s t h hstep => h.step hstep,
    fun l hl => ⟨sortEmitted_perm l, sortEmitted_pairwise hl⟩⟩
  refine ⟨_, s.emitted.map (·.idx), h.step_emit hok hf agent hlen, rfl, h.map_idx_emitted, h.order_pairwise,
    (List.length_map _).trans h.length_emitted, fun m k i q hm hi hq => ?_,
    length_foldl_patchTarget _ _ _ _, fun b q raw hb hq hraw => ?_,
    fun e he => getElem?_foldl_patchTarget_of_ne s.emitted s.imm he⟩
  · obtain ⟨word, hword, hdecode⟩ := h.exists_word hm hi hq
    exact ⟨word, _, hword, hdecode, rfl, rfl, rfl, rfl, h.wordFields_val hok i hq⟩
  · have htarget := (h.targets b hb).trans_lt (List.getElem?_eq_some_iff.mp hraw).1
    obtain ⟨k, hk, hcycle, hfirst⟩ := h.firstWordOf_spec htarget
    exact ⟨_, k, hk, hcycle, hfirst, h.getElem?_patchedImm hb hq hraw⟩

end Sys2Proof.Machine
end

section
/-! SUPPORT. O32, the resynchronisation: a vote is the request of the lowest lane that makes one. -/

namespace Sys2Proof.Machine

/-- The first lane with a request is the lowest one that makes it. -/
theorem find?_eq_some_of_lowest {lanes : List Lane} {request : Lane → Bool} {i : Nat} {l : Lane}
    (hl : lanes[i]? = some l) (hrequest : request l = true)
    (hlowest : ∀ (j : Nat) (m : Lane), j < i → lanes[j]? = some m → request m = false) :
    lanes.find? request = some l := by
  obtain ⟨hi, hget⟩ := List.getElem?_eq_some_iff.mp hl
  refine List.find?_eq_some_iff_getElem.mpr ⟨hrequest, i, hi, hget, fun j hj => ?_⟩
  rw [hlowest j _ hj (List.getElem?_eq_getElem (hj.trans hi)), Bool.not_false]

theorem find?_eq_none_of_no_request {lanes : List Lane} {request : Lane → Bool}
    (h : ∀ l ∈ lanes, request l = false) : lanes.find? request = none :=
  List.find?_eq_none.mpr fun l hl => by simp [h l hl]

/-- Settles O32: each vote by the lowest requesting lane, then the two outcomes of the resynchronisation. -/
theorem resyncTakesLowestLane : Obligations.ResyncTakesLowestLane := by
  intro s n target mode hjump hround
  have htarget : (jumpVote s.lanes).getD (s.pc + n) = target := by
    unfold jumpVote
    rcases hjump with ⟨i, l, hl, hreq, rfl, hlowest⟩ | ⟨hnone, rfl⟩
    · rw [find?_eq_some_of_lowest hl hreq hlowest, Option.map_some, Option.getD_some]
    · rw [find?_eq_none_of_no_request hnone, Option.map_none, Option.getD_none]
  have hmode : (roundingVote s.lanes).getD s.fprc = mode := by
    unfold roundingVote
    rcases hround with ⟨i, l, hl, hreq, rfl, hlowest⟩ | ⟨hnone, rfl⟩
    · rw [find?_eq_some_of_lowest hl hreq hlowest, Option.map_some, Option.getD_some]
    · rw [find?_eq_none_of_no_request hnone, Option.map_none, Option.getD_none]
  rcases s.resync_cases n with ⟨hpast, hr⟩ | ⟨hle, hr⟩ <;> rw [htarget] at *
  · exact ⟨fun hle => absurd hpast hle.not_gt, fun _ => hr⟩
  · refine ⟨fun _ => ?_, fun hpast => absurd hpast hle.not_gt⟩
    rw [hr, hmode, List.map_const']
    rfl

end Sys2Proof.Machine
end

section
/-! SUPPORT. Merging the results of words, for O31: a state by its resources and lanes, what applying one word's result
takes from it, and that the results of words without a conflict, on lanes of their own, are applied in any order. -/

namespace Sys2Proof.Machine

/-! ### Agreement on a resource (R208) -/

theorem SameResource.refl (x : Resource) (s : State) : SameResource x s s := by cases x <;> rfl

theorem SameResource.symm {x : Resource} {s t : State} (h : SameResource x s t) : SameResource x t s := by
  cases x <;> exact Eq.symm h

theorem SameResource.trans {x : Resource} {s t u : State} (hst : SameResource x s t) (htu : SameResource x t u) :
    SameResource x s u := by
  cases x <;> exact Eq.trans htu hst

/-- Two states that an instruction's frame ties to one before, and that agree on every resource, the lanes and the
record, are one state. -/
theorem State.eq_of_sameResource {s t u : State} (ht : InstructionFrame s t) (hu : InstructionFrame s u)
    (resources : ∀ x, SameResource x t u) (lanes : u.lanes = t.lanes) (fault : u.fault = t.fault) : u = t := by
  have hr : u.r = t.r := Bank8.ext_get fun j => resources (.r j)
  have hf : u.f = t.f := Bank4.ext_get fun j => resources (.f j)
  have he : u.e = t.e := Bank4.ext_get fun j => resources (.e j)
  have hm : u.scratch = t.scratch := resources .mem
  rw [hu, ht, hr, hf, he, hm, lanes, fault]

/-! ### Taking resources and lanes from a result (R258) -/

theorem State.takeResource_same (own s : State) {x : Resource} (h : x ≠ .fprc) :
    SameResource x own (own.takeResource s x) := by
  cases x with
  | r j => exact Bank8.get_set_same _ _ _
  | f j | e j => exact Bank4.get_set_same _ _ _
  | fprc => exact absurd rfl h
  | mem => rfl

theorem State.takeResource_of_ne (own s : State) {x y : Resource} (h : y ≠ x) :
    SameResource y s (own.takeResource s x) := by
  cases x with
  | r j =>
    cases y with
    | r k => exact Bank8.get_set_of_ne _ _ fun hjk => h (congrArg _ hjk)
    | f k | e k | fprc | mem => rfl
  | f j =>
    cases y with
    | f k => exact Bank4.get_set_of_ne _ _ fun hjk => h (congrArg _ hjk)
    | r k | e k | fprc | mem => rfl
  | e j =>
    cases y with
    | e k => exact Bank4.get_set_of_ne _ _ fun hjk => h (congrArg _ hjk)
    | r k | f k | fprc | mem => rfl
  | fprc => exact SameResource.refl y s
  | mem =>
    cases y with
    | mem => exact absurd rfl h
    | r k | f k | e k | fprc => rfl

/-- `FPRC` is never taken (R260). -/
theorem State.takeResource_fprc (own s : State) (x : Resource) : SameResource .fprc s (own.takeResource s x) := by
  cases x <;> rfl

theorem State.foldl_takeResource_of_not_mem (own : State) {xs : List Resource} {y : Resource} (h : y ∉ xs)
    (s : State) : SameResource y s (xs.foldl own.takeResource s) := by
  induction xs generalizing s with
  | nil => exact SameResource.refl y s
  | cons x xs ih =>
    rw [List.mem_cons, not_or] at h
    exact (own.takeResource_of_ne s h.1).trans (ih h.2 _)

theorem State.foldl_takeResource_of_mem (own : State) {xs : List Resource} {y : Resource} (h : y ∈ xs)
    (hy : y ≠ .fprc) (s : State) : SameResource y own (xs.foldl own.takeResource s) := by
  induction xs generalizing s with
  | nil => cases h
  | cons x xs ih =>
    by_cases hxs : y ∈ xs
    · exact ih hxs _
    · obtain rfl := (List.mem_cons.mp h).resolve_right hxs
      exact (own.takeResource_same s hy).trans (own.foldl_takeResource_of_not_mem hxs _)

theorem State.foldl_takeResource_fprc (own : State) (xs : List Resource) (s : State) :
    SameResource .fprc s (xs.foldl own.takeResource s) := by
  induction xs generalizing s with
  | nil => rfl
  | cons x xs ih => exact (own.takeResource_fprc s x).trans (ih _)

theorem State.takeLane_only_lanes (own s : State) (i : Nat) :
    own.takeLane s i = { s with lanes := (own.takeLane s i).lanes } := by
  unfold State.takeLane
  split <;> rfl

/-- A list of changes of the lanes changes the lanes alone. -/
theorem State.foldl_only_lanes {op : State → Nat → State} (hop : ∀ s i, op s i = { s with lanes := (op s i).lanes })
    (l : List Nat) (s : State) : l.foldl op s = { s with lanes := (l.foldl op s).lanes } := by
  induction l generalizing s with
  | nil => rfl
  | cons i l ih => rw [List.foldl_cons, ih, hop]

/-- A lane that is taken is the result's, where the result has it. -/
theorem State.getElem?_takeLane (own s : State) (i k : Nat) :
    (own.takeLane s i).lanes[k]? =
      if k = i then s.lanes[k]?.map (own.lanes[k]?).getD else s.lanes[k]? := by
  unfold State.takeLane
  split
  · next h =>
    split
    · next hk =>
      subst hk
      cases s.lanes[k]? <;> simp [h]
    · rfl
  · next l h =>
    rw [State.modifyLane_lanes, List.getElem?_modify]
    by_cases hk : k = i
    · subst hk
      cases s.lanes[k]? <;> simp [h]
    · simp [hk, Ne.symm hk]

theorem State.getElem?_foldl_takeLane (own : State) (l : List Nat) (s : State) (k : Nat) :
    (l.foldl own.takeLane s).lanes[k]? =
      if k ∈ l then s.lanes[k]?.map (own.lanes[k]?).getD else s.lanes[k]? := by
  induction l generalizing s with
  | nil => simp
  | cons i l ih =>
    rw [List.foldl_cons, ih, State.getElem?_takeLane]
    by_cases hi : k = i
    · cases own.lanes[k]? <;> cases s.lanes[k]? <;> simp [hi]
    · simp [hi]

/-! ### Applying one word's result (R258) -/

theorem State.applyResult_of_not_mem (s : State) (result : Slot × State) {x : Resource}
    (h : x ∉ writeSet result.1.instr) : SameResource x s (s.applyResult result) := by
  unfold State.applyResult
  rw [State.foldl_only_lanes result.2.takeLane_only_lanes]
  have hsame := result.2.foldl_takeResource_of_not_mem h s
  cases x <;> exact hsame

theorem State.applyResult_of_mem (s : State) (result : Slot × State) {x : Resource}
    (h : x ∈ writeSet result.1.instr) (hx : x ≠ .fprc) : SameResource x result.2 (s.applyResult result) := by
  unfold State.applyResult
  rw [State.foldl_only_lanes result.2.takeLane_only_lanes]
  have hsame := result.2.foldl_takeResource_of_mem h hx s
  cases x <;> exact hsame

theorem State.applyResult_fprc (s : State) (result : Slot × State) : SameResource .fprc s (s.applyResult result) := by
  unfold State.applyResult
  rw [State.foldl_only_lanes result.2.takeLane_only_lanes]
  exact result.2.foldl_takeResource_fprc _ s

theorem State.foldl_takeResource_lanes (own : State) (xs : List Resource) (s : State) :
    (xs.foldl own.takeResource s).lanes = s.lanes :=
  List.foldlRecOn (motive := fun u : State => u.lanes = s.lanes) xs _ rfl fun u hu x _ =>
    (own.takeResource_lanes u x).trans hu

theorem State.getElem?_applyResult_lanes (s : State) (result : Slot × State) (k : Nat) :
    (s.applyResult result).lanes[k]? =
      if k ∈ result.1.issue.lanes then s.lanes[k]?.map (result.2.lanes[k]?).getD else s.lanes[k]? := by
  unfold State.applyResult
  rw [State.getElem?_foldl_takeLane, State.foldl_takeResource_lanes]

/-- Applying a result never touches the fault record. -/
theorem State.applyResult_fault (s : State) (result : Slot × State) : (s.applyResult result).fault = s.fault := by
  unfold State.applyResult
  rw [State.foldl_only_lanes result.2.takeLane_only_lanes]
  exact List.foldlRecOn (motive := fun u : State => u.fault = s.fault) _ _ rfl fun _ hu x _ => by cases x <;> exact hu

/-! ### Conflicts (R208) -/

theorem Resource.mem_all (x : Resource) : x ∈ Resource.all := by
  cases x with
  | r j | f j | e j => fin_cases j <;> decide
  | fprc | mem => decide

theorem conflictOn_iff {i j : Instr} {x : Resource} :
    conflictOn i j x = true ↔
      (x ∈ writeSet i ∧ (x ∈ readSet j ∨ x ∈ writeSet j)) ∨ (x ∈ readSet i ∧ x ∈ writeSet j) := by
  simp [conflictOn]

theorem conflicts_iff_exists_conflictOn {i j : Instr} : conflicts i j = true ↔ ∃ x, conflictOn i j x = true := by
  simp [conflicts, Resource.mem_all]

/-- R208's definition of a conflict. -/
theorem conflicts_iff {i j : Instr} :
    conflicts i j = true ↔
      ∃ x, (x ∈ writeSet i ∧ (x ∈ readSet j ∨ x ∈ writeSet j)) ∨ (x ∈ readSet i ∧ x ∈ writeSet j) := by
  simp only [conflicts_iff_exists_conflictOn, conflictOn_iff]

/-- Words that do not conflict write nothing that the other reads or writes. -/
theorem conflicts_eq_false_iff {i j : Instr} :
    conflicts i j = false ↔
      (∀ x ∈ writeSet i, x ∉ readSet j ∧ x ∉ writeSet j) ∧ ∀ x ∈ writeSet j, x ∉ readSet i ∧ x ∉ writeSet i := by
  rw [← Bool.not_eq_true, conflicts_iff]
  refine ⟨fun h => ⟨fun x hi => ⟨fun hj => ?_, fun hj => ?_⟩, fun x hj => ⟨fun hi => ?_, fun hi => ?_⟩⟩,
    fun ⟨hi, hj⟩ ⟨x, hx⟩ => ?_⟩
  · exact h ⟨x, .inl ⟨hi, .inl hj⟩⟩
  · exact h ⟨x, .inl ⟨hi, .inr hj⟩⟩
  · exact h ⟨x, .inr ⟨hi, hj⟩⟩
  · exact h ⟨x, .inl ⟨hi, .inr hj⟩⟩
  · rcases hx with ⟨hwi, hrj | hwj⟩ | ⟨hri, hwj⟩
    · exact (hi x hwi).1 hrj
    · exact (hi x hwi).2 hwj
    · exact (hj x hwj).1 hri

/-! ### Results in any order (R258, R271) -/

/-- The results of two words that do not conflict, on lanes of their own, are applied in either order. -/
theorem State.applyResult_comm {a b : Slot × State} (s : State)
    (hconflict : conflicts a.1.instr b.1.instr = false) (hlanes : ∀ i ∈ a.1.issue.lanes, i ∉ b.1.issue.lanes) :
    (s.applyResult a).applyResult b = (s.applyResult b).applyResult a := by
  obtain ⟨hab, -⟩ := conflicts_eq_false_iff.mp hconflict
  refine State.eq_of_sameResource ((s.applyResult_frame b).trans (State.applyResult_frame _ a))
    ((s.applyResult_frame a).trans (State.applyResult_frame _ b)) (fun x => ?_) (List.ext_getElem? fun k => ?_) ?_
  · by_cases hx : x = .fprc
    · subst hx
      exact ((s.applyResult_fprc b).trans (State.applyResult_fprc _ a)).symm.trans
        ((s.applyResult_fprc a).trans (State.applyResult_fprc _ b))
    by_cases ha : x ∈ writeSet a.1.instr
    · exact (State.applyResult_of_mem _ a ha hx).symm.trans
        ((s.applyResult_of_mem a ha hx).trans (State.applyResult_of_not_mem _ b (hab x ha).2))
    have hleft := State.applyResult_of_not_mem (s.applyResult b) a ha
    by_cases hb : x ∈ writeSet b.1.instr
    · exact ((s.applyResult_of_mem b hb hx).trans hleft).symm.trans (State.applyResult_of_mem _ b hb hx)
    · exact ((s.applyResult_of_not_mem b hb).trans hleft).symm.trans
        ((s.applyResult_of_not_mem a ha).trans (State.applyResult_of_not_mem _ b hb))
  · simp only [State.getElem?_applyResult_lanes]
    by_cases ha : k ∈ a.1.issue.lanes
    · simp [ha, hlanes k ha]
    · simp [ha]
  · simp only [State.applyResult_fault]

theorem State.foldl_applyResult_perm (s : State) {xs ys : List (Slot × State)} (hperm : xs.Perm ys)
    (hconflict : xs.Pairwise fun a b => conflicts a.1.instr b.1.instr = false)
    (hlanes : xs.Pairwise fun a b => ∀ i ∈ a.1.issue.lanes, i ∉ b.1.issue.lanes) :
    xs.foldl State.applyResult s = ys.foldl State.applyResult s := by
  have hcomm : xs.Pairwise fun a b =>
      ∀ z : State, (z.applyResult a).applyResult b = (z.applyResult b).applyResult a :=
    (hconflict.and hlanes).imp fun hab z => z.applyResult_comm hab.1 hab.2
  have hflip := hcomm.imp fun {a b} hab (z : State) => (hab z).symm
  exact hperm.foldl_eq' (fun a ha b hb => hcomm.forall_of_forall_of_flip (fun _ _ _ => rfl) hflip ha hb) s

end Sys2Proof.Machine
end

section
/-! SUPPORT. What a word does depends on what it reads, for O31: where a state has what a word reads by R208 and its
lanes as before, the word's effect is to take its written resources and its lanes from the result it had before. -/

namespace Sys2Proof.Machine

/-! ### What a word reads (R208) -/

/-- A state in which the word `i`, on its lanes, finds everything it reads as in `s` (R208, R258): it differs from `s`
only where executing words changes a state, and neither in what `i` reads nor on its lanes. -/
structure ReadsAlike (i : Instr) (s t : State) : Prop where
  frame : InstructionFrame s t
  lanes : ∀ k ∈ s.issue.lanes, t.lanes[k]? = s.lanes[k]?
  reads : ∀ x ∈ readSet i, SameResource x s t

theorem ReadsAlike.refl (i : Instr) (s : State) : ReadsAlike i s s :=
  ⟨rfl, fun _ _ => rfl, fun x _ => SameResource.refl x s⟩

namespace ReadsAlike

variable {i : Instr} {s t : State} (h : ReadsAlike i s t)
include h

theorem reg {j : Fin 8} (hj : .r j ∈ readSet i) : t.reg j = s.reg j := h.reads _ hj

theorem fReg {j : Fin 4} (hj : .f j ∈ readSet i) : t.fReg j = s.fReg j := h.reads _ hj

theorem eReg {j : Fin 4} (hj : .e j ∈ readSet i) : t.eReg j = s.eReg j := h.reads _ hj

theorem spRead (hmem : .mem ∈ readSet i) : t.spRead = s.spRead :=
  congrArg Memory.readWord (h.reads _ hmem)

theorem immEntry : t.immEntry = s.immEntry := by rw [h.frame]; rfl

theorem immSext : t.immSext = s.immSext := by rw [h.frame]; rfl

theorem immAmount : t.immAmount = s.immAmount := by rw [h.frame]; rfl

theorem immWord64 : t.immWord64 = s.immWord64 := by rw [h.frame]; rfl

theorem progLen : t.progLen = s.progLen := by rw [h.frame]; rfl

theorem aReg : t.aReg = s.aReg := by rw [h.frame]; rfl

theorem eMask : t.eMask = s.eMask := by
  rw [h.frame]
  funext half
  cases half <;> rfl

theorem issue : t.issue = s.issue := by rw [h.frame]

theorem isWritten (l : Location) : t.isWritten l = s.isWritten l := by
  rw [h.frame]
  cases l <;> rfl

theorem operand2 {w : Fields} (hsrc : .r w.src ∈ readSet i) : t.operand2 w = s.operand2 w := by
  unfold State.operand2
  rw [h.immSext, h.reg hsrc]

theorem rotateAmount {w : Fields} (hsrc : .r w.src ∈ readSet i) : t.rotateAmount w = s.rotateAmount w := by
  unfold State.rotateAmount
  rw [h.immAmount, h.reg hsrc]

theorem loadOperand {w : Fields} (hsrc : .r w.src ∈ readSet i) (hmem : .mem ∈ readSet i) :
    t.loadOperand w = s.loadOperand w := by
  unfold State.loadOperand State.loadAddr
  rw [h.spRead hmem, h.immEntry, h.reg hsrc]

theorem fLoadOperand {w : Fields} (hsrc : .r w.src ∈ readSet i) (hmem : .mem ∈ readSet i) :
    t.fLoadOperand w = s.fLoadOperand w := by
  funext half
  unfold State.fLoadOperand State.fLoadAddr
  rw [h.spRead hmem, h.immEntry, h.reg hsrc]

theorem modeOf (half : Half) : t.modeOf half = s.modeOf half := by
  have hlane : s.issue.laneOfHalf half ∈ s.issue.lanes := by
    unfold Issue.laneOfHalf Issue.lanes
    cases half <;> cases s.issue.paired <;> simp
  have hfprc : t.fprc = s.fprc := by rw [h.frame]
  unfold State.modeOf
  rw [h.issue, h.lanes _ hlane, hfprc]

theorem byHalf (op : Config.RoundMode → Word64 → Word64 → Word64) : t.byHalf op = s.byHalf op := by
  funext x y
  unfold State.byHalf
  simp only [h.modeOf]

end ReadsAlike

/-- An integer word with a second operand reads both its registers; with `src = dst` they are one. -/
theorem mem_operands_iff {w : Fields} {x : Resource} :
    x ∈ (if w.src = w.dst then [.r w.dst] else [.r w.dst, .r w.src]) ↔ x = .r w.dst ∨ x = .r w.src := by
  by_cases hsd : w.src = w.dst <;> simp [hsd]

/-- An integer load reads both its registers and memory. -/
theorem mem_loadOperands_iff {w : Fields} {x : Resource} :
    x ∈ (if w.src = w.dst then [.r w.dst, .mem] else [.r w.dst, .mem, .r w.src]) ↔
      x = .r w.dst ∨ x = .mem ∨ x = .r w.src := by
  by_cases hsd : w.src = w.dst
  · simp [hsd, or_comm, or_left_comm]
  · simp [hsd]

/-! ### What a word does depends on what it reads (R258, R271) -/

/-- Lanes that are as the result has them are not changed by taking them. -/
theorem State.applyResult_of_lanes {s : State} {q : Slot} {own : State}
    (h : ∀ k ∈ q.issue.lanes, s.lanes[k]? = own.lanes[k]?) :
    s.applyResult (q, own) = (writeSet q.instr).foldl own.takeResource s := by
  unfold State.applyResult
  rw [State.foldl_only_lanes own.takeLane_only_lanes]
  have hlanes : (q.issue.lanes.foldl own.takeLane ((writeSet q.instr).foldl own.takeResource s)).lanes =
      ((writeSet q.instr).foldl own.takeResource s).lanes := by
    refine List.ext_getElem? fun k => ?_
    rw [State.getElem?_foldl_takeLane, State.foldl_takeResource_lanes]
    split
    · next hk => rw [← h k hk]; cases s.lanes[k]? <;> rfl
    · rfl
  rw [hlanes]

/-- What a request does to the lanes of its word (R380, R385). -/
theorem State.getElem?_foldl_modifyLane {g : Lane → Lane} (hg : ∀ l, g (g l) = g l) (l : List Nat) (s : State)
    (k : Nat) :
    (l.foldl (fun t i => t.modifyLane i g) s).lanes[k]? = if k ∈ l then s.lanes[k]?.map g else s.lanes[k]? := by
  induction l generalizing s with
  | nil => simp
  | cons i l ih =>
    rw [List.foldl_cons, ih, State.modifyLane_lanes, List.getElem?_modify]
    by_cases hi : i = k
    · cases s.lanes[k]? <;> simp [hi, hg]
    · simp [hi, Ne.symm hi]

/-- The result of a word that requests something of its lanes `u`: its resources are those of `u`, and taking its lanes
is making the request (R380, R385). -/
theorem State.applyResult_of_request {g : Lane → Lane} (hg : ∀ l, g (g l) = g l) {s u : State} (i : Instr)
    (hlanes : ∀ k ∈ u.issue.lanes, s.lanes[k]? = u.lanes[k]?) :
    s.applyResult (⟨u.issue, i⟩, u.issue.lanes.foldl (fun t k => t.modifyLane k g) u) =
      u.issue.lanes.foldl (fun t k => t.modifyLane k g) ((writeSet i).foldl u.takeResource s) := by
  have hown := State.foldl_only_lanes (op := fun t k => t.modifyLane k g) (fun _ _ => rfl) u.issue.lanes
  have htake : (u.issue.lanes.foldl (fun t k => t.modifyLane k g) u).takeResource = u.takeResource := by
    rw [hown]
    funext z x
    cases x <;> rfl
  simp only [State.applyResult, htake]
  rw [State.foldl_only_lanes (State.takeLane_only_lanes _), hown ((writeSet i).foldl u.takeResource s)]
  congr 1
  refine List.ext_getElem? fun k => ?_
  simp only [State.getElem?_foldl_takeLane, State.getElem?_foldl_modifyLane hg, State.foldl_takeResource_lanes]
  split
  · next hk => rw [hlanes k hk]; cases u.lanes[k]? <;> rfl
  · rfl

theorem State.foldl_takeResource_issue (own : State) (xs : List Resource) (s : State) :
    (xs.foldl own.takeResource s).issue = s.issue := by
  rw [InstructionFrame.foldl own.takeResource_frame xs s]

theorem State.applyResult_requestJump {s u : State} (i : Instr) (target : BitVec 16) (hissue : s.issue = u.issue)
    (hlanes : ∀ k ∈ u.issue.lanes, s.lanes[k]? = u.lanes[k]?) :
    s.applyResult (⟨u.issue, i⟩, u.requestJump target) =
      ((writeSet i).foldl u.takeResource s).requestJump target := by
  unfold State.requestJump
  rw [State.foldl_takeResource_issue, hissue]
  exact State.applyResult_of_request (g := fun l => { l with jreq := true, jtgt := target }) (fun _ => rfl) i hlanes

theorem State.applyResult_requestRounding {s u : State} (i : Instr) (mode : BitVec 2) (hissue : s.issue = u.issue)
    (hlanes : ∀ k ∈ u.issue.lanes, s.lanes[k]? = u.lanes[k]?) :
    s.applyResult (⟨u.issue, i⟩, u.requestRounding mode) =
      ((writeSet i).foldl u.takeResource s).requestRounding mode := by
  unfold State.requestRounding
  rw [State.foldl_takeResource_issue, hissue]
  exact State.applyResult_of_request (g := fun l => { l with rreq := true, rval := mode }) (fun _ => rfl) i hlanes

theorem State.takeResource_setReg (s u : State) (d : Fin 8) (v : Word64) :
    (u.setReg d v).takeResource s (.r d) = s.setReg d v := by
  simp [State.takeResource, State.setReg]

theorem State.takeResource_setFReg (s u : State) (d : Fin 4) (v : FReg) :
    (u.setFReg d v).takeResource s (.f d) = s.setFReg d v := by
  simp [State.takeResource, State.setFReg]

theorem State.takeResource_setEReg (s u : State) (d : Fin 4) (v : FReg) :
    (u.setEReg d v).takeResource s (.e d) = s.setEReg d v := by
  simp [State.takeResource, State.setEReg]

section

variable {i : Instr} {s s' t : State} {places : List Location} (h : ReadsAlike i s s') (hf : t.fault = none)
include h hf

/-- A word that raised nothing is legal, and the places it reads have values where it reads alike. -/
theorem ReadsAlike.executing {out out' : Host.Outcome State Fault Refusal} (he : s.executing i places out = .next t)
    (hout : out = .next t → out' = .next (s'.applyResult (⟨s.issue, i⟩, t))) :
    s'.executing i places out' = .next (s'.applyResult (⟨s.issue, i⟩, t)) := by
  rcases State.executing_cases he with ⟨-, rfl⟩ | ⟨-, l, -, -, rfl⟩ | ⟨hl, hw, hnext⟩
  · simpa [hf] using s.raise_fault_isSome (.badWord s.pc s.issue.word (encodeWord i))
  · simpa [hf] using s.raise_fault_isSome (.unwrittenRead s.pc s.issue.word l)
  · rw [State.executing_of_written out' hl fun l hp => (h.isWritten l).trans (hw l hp), hout hnext]

theorem ReadsAlike.executing_setReg {d : Fin 8} {v v' : Word64} (hw : writeSet i = [.r d]) (hv : v' = v)
    (he : s.executing i places (.next (s.setReg d v)) = .next t) :
    s'.executing i places (.next (s'.setReg d v')) = .next (s'.applyResult (⟨s.issue, i⟩, t)) := by
  refine h.executing hf he fun hnext => ?_
  cases hnext
  rw [State.applyResult_of_lanes h.lanes, hw, hv, List.foldl_cons, List.foldl_nil, State.takeResource_setReg]

theorem ReadsAlike.executing_setFReg {d : Fin 4} {v v' : FReg} (hw : writeSet i = [.f d]) (hv : v' = v)
    (he : s.executing i places (.next (s.setFReg d v)) = .next t) :
    s'.executing i places (.next (s'.setFReg d v')) = .next (s'.applyResult (⟨s.issue, i⟩, t)) := by
  refine h.executing hf he fun hnext => ?_
  cases hnext
  rw [State.applyResult_of_lanes h.lanes, hw, hv, List.foldl_cons, List.foldl_nil, State.takeResource_setFReg]

theorem ReadsAlike.executing_setEReg {d : Fin 4} {v v' : FReg} (hw : writeSet i = [.e d]) (hv : v' = v)
    (he : s.executing i places (.next (s.setEReg d v)) = .next t) :
    s'.executing i places (.next (s'.setEReg d v')) = .next (s'.applyResult (⟨s.issue, i⟩, t)) := by
  refine h.executing hf he fun hnext => ?_
  cases hnext
  rw [State.applyResult_of_lanes h.lanes, hw, hv, List.foldl_cons, List.foldl_nil, State.takeResource_setEReg]

end

theorem execIswapR_eq_applyResult {w : Fields} {s s' t : State} (h : ReadsAlike (.iswapR w) s s')
    (hf : t.fault = none) (he : exec (.iswapR w) s = .next t) :
    exec (.iswapR w) s' = .next (s'.applyResult (⟨s.issue, .iswapR w⟩, t)) := by
  refine h.executing hf he fun hnext => ?_
  cases hnext
  rw [State.applyResult_of_lanes h.lanes]
  by_cases hsd : w.src = w.dst
  · simp [writeSet, hsd, State.setReg, State.reg]
  · have hdst : s'.reg w.dst = s.reg w.dst := h.reg (by simp [readSet, hsd])
    have hsrc : s'.reg w.src = s.reg w.src := h.reg (by simp [readSet, hsd])
    simp [writeSet, hsd, State.takeResource, State.setReg, Bank8.get_set_of_ne _ _ (Ne.symm hsd), hdst, hsrc]

theorem execFswapR_eq_applyResult {w : Fields} {s s' t : State} (h : ReadsAlike (.fswapR w) s s')
    (hf : t.fault = none) (he : exec (.fswapR w) s = .next t) :
    exec (.fswapR w) s' = .next (s'.applyResult (⟨s.issue, .fswapR w⟩, t)) := by
  simp only [exec, execFswapR] at he ⊢
  split
  · next hd =>
    have hset : writeSet (.fswapR w) = [.f (quad w.dst)] := by simp [writeSet, swapResource, hd]
    have hreg : s'.fReg (quad w.dst) = s.fReg (quad w.dst) := h.fReg (by simp [readSet, swapResource, hd])
    rw [if_pos hd] at he
    exact h.executing_setFReg hf hset (by rw [hreg]) he
  · next hd =>
    have hset : writeSet (.fswapR w) = [.e (quad w.dst)] := by simp [writeSet, swapResource, hd]
    have hreg : s'.eReg (quad w.dst) = s.eReg (quad w.dst) := h.eReg (by simp [readSet, swapResource, hd])
    rw [if_neg hd] at he
    exact h.executing_setEReg hf hset (by rw [hreg]) he

/-- A word whose effect is a fault raises it. -/
theorem State.fault_ne_none_of_faultWord {s t : State} {rec : FaultRecord} (h : s.faultWord rec = .next t) :
    t.fault ≠ none := by
  cases h
  exact Option.isSome_iff_ne_none.mp (s.raise_fault_isSome rec)

/-- A CBRANCH writes its register and, taken, makes its request on its own lanes. -/
theorem execCbranch_eq_applyResult {w : Fields} {s s' t : State} (h : ReadsAlike (.cbranch w) s s')
    (hf : t.fault = none) (he : exec (.cbranch w) s = .next t) :
    exec (.cbranch w) s' = .next (s'.applyResult (⟨s.issue, .cbranch w⟩, t)) := by
  refine h.executing hf he fun hnext => ?_
  have hreg : s'.reg w.dst = s.reg w.dst := h.reg List.mem_cons_self
  rw [h.immEntry, h.immSext, h.progLen, hreg]
  split_ifs at hnext with hlegal htarget htaken
  · rw [if_pos hlegal, if_pos htarget, if_pos htaken]
    cases hnext
    have hresult := State.applyResult_requestJump (u := s.setReg w.dst (s.reg w.dst + s.immSext w.immIdx.val))
      (.cbranch w) (BitVec.ofNat 16 (branchTarget (s.immEntry (w.immIdx.val + 1)))) h.issue h.lanes
    rw [writeSet, List.foldl_cons, List.foldl_nil, State.takeResource_setReg] at hresult
    exact congrArg _ hresult.symm
  · rw [if_pos hlegal, if_pos htarget, if_neg htaken]
    cases hnext
    rw [State.applyResult_of_lanes h.lanes, writeSet, List.foldl_cons, List.foldl_nil, State.takeResource_setReg]
  · exact absurd hf (State.fault_ne_none_of_faultWord hnext)
  · exact absurd hf (State.fault_ne_none_of_faultWord hnext)

theorem execCfround_eq_applyResult {w : Fields} {s s' t : State} (h : ReadsAlike (.cfround w) s s')
    (hf : t.fault = none) (he : exec (.cfround w) s = .next t) :
    exec (.cfround w) s' = .next (s'.applyResult (⟨s.issue, .cfround w⟩, t)) := by
  refine h.executing hf he fun hnext => ?_
  cases hnext
  have hmode : s'.roundingRequest w = s.roundingRequest w := by
    unfold State.roundingRequest
    rw [h.immAmount, h.reg List.mem_cons_self]
  rw [hmode]
  exact congrArg _ (State.applyResult_requestRounding (.cfround w) (s.roundingRequest w) h.issue h.lanes).symm

theorem execIstore_eq_applyResult {w : Fields} {s s' t : State} (h : ReadsAlike (.istore w) s s')
    (hf : t.fault = none) (he : exec (.istore w) s = .next t) :
    exec (.istore w) s' = .next (s'.applyResult (⟨s.issue, .istore w⟩, t)) := by
  refine h.executing hf he fun hnext => ?_
  cases hnext
  have hscratch : s'.scratch = s.scratch := h.reads .mem (by simp [readSet])
  rw [State.applyResult_of_lanes h.lanes]
  simp [writeSet, State.takeResource, State.spWrite, State.storeAddr, h.immEntry, hscratch,
    h.reg (show .r w.dst ∈ readSet (.istore w) by simp [readSet]),
    h.reg (show .r w.src ∈ readSet (.istore w) by simp [readSet])]

/-- A word that raises nothing has, on every state in which it reads alike, the effect of its result (R258, R271). -/
theorem exec_eq_applyResult {i : Instr} {s s' t : State} (h : ReadsAlike i s s') (hf : t.fault = none)
    (he : exec i s = .next t) : exec i s' = .next (s'.applyResult (⟨s.issue, i⟩, t)) := by
  cases i with
  | iaddRs w =>
    have hsrc : s'.reg w.src = s.reg w.src := h.reg (List.mem_cons_of_mem _ List.mem_cons_self)
    exact h.executing_setReg hf rfl (by rw [h.reg List.mem_cons_self, hsrc, h.immSext]) he
  | imulhR w | ismulhR w =>
    have hsrc : s'.reg w.src = s.reg w.src := h.reg (List.mem_cons_of_mem _ List.mem_cons_self)
    exact h.executing_setReg hf rfl (by rw [h.reg List.mem_cons_self, hsrc]) he
  | isubR w | imulR w | ixorR w =>
    have hdst : s'.reg w.dst = s.reg w.dst := h.reg (mem_operands_iff.mpr (.inl rfl))
    exact h.executing_setReg hf rfl (by rw [hdst, h.operand2 (mem_operands_iff.mpr (.inr rfl))]) he
  | irorR w | irolR w =>
    have hdst : s'.reg w.dst = s.reg w.dst := h.reg (mem_operands_iff.mpr (.inl rfl))
    exact h.executing_setReg hf rfl (by rw [hdst, h.rotateAmount (mem_operands_iff.mpr (.inr rfl))]) he
  | iaddM w | isubM w | imulM w | imulhM w | ismulhM w | ixorM w =>
    have hdst : s'.reg w.dst = s.reg w.dst := h.reg (mem_loadOperands_iff.mpr (.inl rfl))
    have hload : s'.loadOperand w = s.loadOperand w :=
      h.loadOperand (mem_loadOperands_iff.mpr (.inr (.inr rfl))) (mem_loadOperands_iff.mpr (.inr (.inl rfl)))
    exact h.executing_setReg hf rfl (by rw [hdst, hload]) he
  | imulRcp w => exact h.executing_setReg hf rfl (by rw [h.reg List.mem_cons_self, h.immWord64]) he
  | inegR w => exact h.executing_setReg hf rfl (by rw [h.reg List.mem_cons_self]) he
  | iswapR w => exact execIswapR_eq_applyResult h hf he
  | fswapR w => exact execFswapR_eq_applyResult h hf he
  | faddR w | fsubR w =>
    exact h.executing_setFReg hf rfl (by rw [h.byHalf, h.fReg List.mem_cons_self, h.aReg]) he
  | faddM w | fsubM w =>
    have hload : s'.fLoadOperand w = s.fLoadOperand w := h.fLoadOperand (by simp [readSet]) (by simp [readSet])
    exact h.executing_setFReg hf rfl (by rw [h.byHalf, h.fReg List.mem_cons_self, hload]) he
  | fscalR w => exact h.executing_setFReg hf rfl (by rw [h.fReg List.mem_cons_self]) he
  | fmulR w => exact h.executing_setEReg hf rfl (by rw [h.byHalf, h.eReg List.mem_cons_self, h.aReg]) he
  | fdivM w =>
    have hload : s'.fLoadOperand w = s.fLoadOperand w := h.fLoadOperand (by simp [readSet]) (by simp [readSet])
    exact h.executing_setEReg hf rfl (by rw [h.byHalf, h.eReg List.mem_cons_self, hload, h.eMask]) he
  | fsqrtR w =>
    have hreg : s'.eReg (quad w.dst) = s.eReg (quad w.dst) := h.eReg List.mem_cons_self
    exact h.executing_setEReg hf rfl (by simp only [h.modeOf, hreg]) he
  | cbranch w => exact execCbranch_eq_applyResult h hf he
  | cfround w => exact execCfround_eq_applyResult h hf he
  | istore w => exact execIstore_eq_applyResult h hf he
  | nop w =>
    refine h.executing hf he fun hnext => ?_
    cases hnext
    rw [State.applyResult_of_lanes h.lanes]
    rfl

end Sys2Proof.Machine
end

section
/-! SUPPORT. Two words one after the other, R208's table by opcode, and O31. Words that do not conflict, on lanes of
their own, commute: each reads after the other what it reads before, and their results are taken in any order. -/

namespace Sys2Proof.Machine

/-! ### Words one after the other (R258, R271) -/

/-- A word that raises nothing takes its resources and lanes from its own result. -/
theorem exec_eq_applyResult_self {i : Instr} {s t : State} (he : exec i s = .next t) (hf : t.fault = none) :
    t = s.applyResult (⟨s.issue, i⟩, t) :=
  Host.Outcome.next.inj (he.symm.trans (exec_eq_applyResult (.refl i s) hf he))

theorem State.withIssue_applyResult (s : State) (u : Issue) (result : Slot × State) :
    (s.withIssue u).applyResult result = (s.applyResult result).withIssue u := by
  unfold State.applyResult
  rw [List.foldl_hom (fun z : State => z.withIssue u) (g₁ := result.2.takeResource) fun z x => by cases x <;> rfl]
  refine List.foldl_hom (fun z : State => z.withIssue u) (g₁ := result.2.takeLane) fun z k => ?_
  unfold State.takeLane
  split <;> rfl

/-- The result of a word inside a group, put back to no word being executed, is its effect on the state before. -/
theorem withIssue_eq_applyResult {i : Instr} {s t : State} {u : Issue} (he : exec i (s.withIssue u) = .next t)
    (hf : t.fault = none) (v : Issue) : t.withIssue v = (s.applyResult (⟨u, i⟩, t)).withIssue v := by
  calc t.withIssue v
      = ((s.withIssue u).applyResult (⟨u, i⟩, t)).withIssue v :=
        congrArg (State.withIssue · v) (exec_eq_applyResult_self he hf)
    _ = (s.applyResult (⟨u, i⟩, t)).withIssue v := by rw [State.withIssue_applyResult]; rfl

/-- A word that raises nothing raises nothing because nothing was recorded before. -/
theorem fault_eq_none_of_exec {i : Instr} {s t : State} {u : Issue} (he : exec i (s.withIssue u) = .next t)
    (hf : t.fault = none) : s.fault = none := by
  have h := congrArg State.fault (exec_eq_applyResult_self he hf)
  rw [State.applyResult_fault, hf] at h
  exact h.symm

/-- A word reads after another one what it reads before, when that one writes none of what it reads and runs on other
lanes. -/
theorem ReadsAlike.after {i j : Instr} {s a : State} {u v : Issue} (he : exec i (s.withIssue u) = .next a)
    (hf : a.fault = none) (hwrites : ∀ x ∈ writeSet i, x ∉ readSet j) (hlanes : ∀ k ∈ u.lanes, k ∉ v.lanes) :
    ReadsAlike j (s.withIssue v) (a.withIssue v) := by
  rw [withIssue_eq_applyResult he hf v]
  refine ⟨?_, fun k hk => ?_, fun x hx => ?_⟩
  · have hframe := s.applyResult_frame (⟨u, i⟩, a)
    unfold InstructionFrame at hframe ⊢
    rw [hframe]
    rfl
  · have hku : k ∉ u.lanes := fun hku => hlanes k hku hk
    rw [State.withIssue_lanes, State.getElem?_applyResult_lanes, if_neg hku]
    rfl
  · have hxi : x ∉ writeSet i := fun hxi => hwrites x hxi hx
    have hsame := s.applyResult_of_not_mem (⟨u, i⟩, a) hxi
    cases x <;> exact hsame

/-- The second of two words that do not conflict has, after the first, the effect it has by itself. -/
theorem exec_after {i j : Instr} {s a b : State} {u v : Issue} (ha : exec i (s.withIssue u) = .next a)
    (hfa : a.fault = none) (hb : exec j (s.withIssue v) = .next b) (hfb : b.fault = none)
    (hwrites : ∀ x ∈ writeSet i, x ∉ readSet j) (hlanes : ∀ k ∈ u.lanes, k ∉ v.lanes) :
    exec j (a.withIssue v) = .next (((s.applyResult (⟨u, i⟩, a)).applyResult (⟨v, j⟩, b)).withIssue v) := by
  rw [exec_eq_applyResult (.after ha hfa hwrites hlanes) hfb hb, withIssue_eq_applyResult ha hfa v,
    State.withIssue_applyResult]
  rfl

/-- Two words that do not conflict, on lanes of their own, one after the other: either order gives the same state. -/
theorem exec_comm {i j : Instr} {s a b : State} {u v : Issue} (hconflict : conflicts i j = false)
    (hlanes : ∀ k ∈ u.lanes, k ∉ v.lanes) (ha : exec i (s.withIssue u) = .next a) (hfa : a.fault = none)
    (hb : exec j (s.withIssue v) = .next b) (hfb : b.fault = none) :
    ∃ c d, exec j (a.withIssue v) = .next c ∧ exec i (b.withIssue u) = .next d ∧ c.fault = none ∧
      c.withIssue s.issue = d.withIssue s.issue := by
  obtain ⟨hij, hji⟩ := conflicts_eq_false_iff.mp hconflict
  refine ⟨_, _, exec_after ha hfa hb hfb (fun x hx => (hij x hx).1) hlanes,
    exec_after hb hfb ha hfa (fun x hx => (hji x hx).1) fun k hv hu => hlanes k hu hv, ?_, ?_⟩
  · rw [State.withIssue_fault, State.applyResult_fault, State.applyResult_fault]
    exact fault_eq_none_of_exec ha hfa
  · rw [State.applyResult_comm (a := (⟨u, i⟩, a)) (b := (⟨v, j⟩, b)) s hconflict hlanes]
    rfl

/-! ### R208's table by opcode -/

theorem eq_quad_iff {d : Fin 8} {k : Fin 4} (hd : d.val < 4) : k = quad d ↔ d.val = k.val := by
  rw [quad, Fin.ext_iff, Fin.val_ofNat, Nat.mod_eq_of_lt hd, eq_comm]

/-- The register of F or E that FSWAP_R names (R346). -/
theorem eq_swapResource_iff {d : Fin 8} {x : Resource} :
    x = swapResource d ↔ ∃ k : Fin 4, (x = .f k ∧ d.val = k.val) ∨ (x = .e k ∧ d.val = 4 + k.val) := by
  unfold swapResource quad
  split
  · next hd =>
    refine ⟨fun h => ⟨_, .inl ⟨h, ?_⟩⟩, fun ⟨k, hk⟩ => ?_⟩
    · rw [Fin.val_ofNat, Nat.mod_eq_of_lt hd]
    · obtain ⟨rfl, hdk⟩ := hk.resolve_right fun h => by omega
      exact congrArg _ ((eq_quad_iff hd).mpr hdk)
  · next hd =>
    refine ⟨fun h => ⟨_, .inr ⟨h, ?_⟩⟩, fun ⟨k, hk⟩ => ?_⟩
    · rw [Fin.val_ofNat]
      omega
    · obtain ⟨rfl, hdk⟩ := hk.resolve_left fun h => by omega
      refine congrArg _ (Fin.ext ?_)
      rw [Fin.val_ofNat]
      omega

theorem Instr.dst_lt_of_legal {i : Instr} (hl : i.legal = true) (hq : i.dstIsQuad = true) : i.fields.dst.val < 4 := by
  simp only [Instr.legal, Instr.regsLegal, hq, Bool.and_eq_true, Bool.not_true, Bool.false_or, decide_eq_true_eq] at hl
  obtain ⟨-, hdst, -⟩ := hl
  exact hdst

theorem r_mem_readSet_iff (i : Instr) (k : Fin 8) :
    .r k ∈ readSet i ↔
      (i.opcode ≤ 15 ∧ k = i.fields.dst) ∨
      (i.opcode ≤ 15 ∧ i.opcode ≠ 10 ∧ i.opcode ≠ 11 ∧ k = i.fields.src) ∨
      (i.opcode = 16 ∧ i.fields.src ≠ i.fields.dst ∧ (k = i.fields.dst ∨ k = i.fields.src)) ∨
      (i.opcode ∈ [26, 28] ∧ k = i.fields.dst) ∨ (i.opcode ∈ [19, 21, 24, 27, 28] ∧ k = i.fields.src) := by
  cases i <;>
    simp [readSet, mem_operands_iff, mem_loadOperands_iff, eq_swapResource_iff, Instr.opcode, Instr.fields]

theorem r_mem_writeSet_iff (i : Instr) (k : Fin 8) :
    .r k ∈ writeSet i ↔
      ((i.opcode ≤ 15 ∨ i.opcode = 26) ∧ k = i.fields.dst) ∨
      (i.opcode = 16 ∧ i.fields.src ≠ i.fields.dst ∧ (k = i.fields.dst ∨ k = i.fields.src)) := by
  cases i <;> simp [writeSet, eq_swapResource_iff, Instr.opcode, Instr.fields]

/-- A word reads the registers of F that it writes, and no others. -/
theorem f_mem_readSet_iff_writeSet (i : Instr) (k : Fin 4) : .f k ∈ readSet i ↔ .f k ∈ writeSet i := by
  cases i <;> simp [readSet, writeSet, mem_operands_iff, mem_loadOperands_iff]

/-- A word reads the registers of E that it writes, and no others. -/
theorem e_mem_readSet_iff_writeSet (i : Instr) (k : Fin 4) : .e k ∈ readSet i ↔ .e k ∈ writeSet i := by
  cases i <;> simp [readSet, writeSet, mem_operands_iff, mem_loadOperands_iff]

theorem f_mem_writeSet_iff {i : Instr} (hl : i.legal = true) (k : Fin 4) :
    .f k ∈ writeSet i ↔ i.opcode ∈ [17, 18, 19, 20, 21, 22] ∧ i.fields.dst.val = k.val := by
  cases i with
  | faddR w | faddM w | fsubR w | fsubM w | fscalR w =>
    simpa [writeSet, Instr.opcode, Instr.fields] using eq_quad_iff (Instr.dst_lt_of_legal hl rfl)
  | _ => simp [writeSet, eq_swapResource_iff, Instr.opcode, Instr.fields]

theorem e_mem_writeSet_iff {i : Instr} (hl : i.legal = true) (k : Fin 4) :
    .e k ∈ writeSet i ↔
      (i.opcode = 17 ∧ i.fields.dst.val = 4 + k.val) ∨ (i.opcode ∈ [23, 24, 25] ∧ i.fields.dst.val = k.val) := by
  cases i with
  | fmulR w | fdivM w | fsqrtR w =>
    simpa [writeSet, Instr.opcode, Instr.fields] using eq_quad_iff (Instr.dst_lt_of_legal hl rfl)
  | _ => simp [writeSet, eq_swapResource_iff, Instr.opcode, Instr.fields]

theorem fprc_mem_readSet_iff (i : Instr) : .fprc ∈ readSet i ↔ i.opcode ∈ [18, 19, 20, 21, 23, 24, 25] := by
  cases i <;> simp [readSet, mem_operands_iff, mem_loadOperands_iff, eq_swapResource_iff, Instr.opcode]

theorem fprc_mem_writeSet_iff (i : Instr) : .fprc ∈ writeSet i ↔ i.opcode = 27 := by
  cases i <;> simp [writeSet, eq_swapResource_iff, Instr.opcode]

theorem mem_mem_readSet_iff (i : Instr) : .mem ∈ readSet i ↔ i.opcode ∈ [1, 3, 5, 7, 9, 13, 19, 21, 24, 28] := by
  cases i <;> simp [readSet, mem_operands_iff, mem_loadOperands_iff, eq_swapResource_iff, Instr.opcode]

theorem mem_mem_writeSet_iff (i : Instr) : .mem ∈ writeSet i ↔ i.opcode = 28 := by
  cases i <;> simp [writeSet, eq_swapResource_iff, Instr.opcode]

/-- Settles O31: results of words without a conflict commute, so do their executions, since neither changes what the
other reads, and R208's table read off the sets. -/
theorem effectOrderIrrelevant : Obligations.EffectOrderIrrelevant := by
  refine ⟨fun s xs ys => s.foldl_applyResult_perm,
    fun s a b i j u v hconflict hlanes ha hfa hb hfb => exec_comm hconflict hlanes ha hfa hb hfb,
    fun i hl => ?_, fun i j => conflicts_iff⟩
  exact ⟨r_mem_readSet_iff i, r_mem_writeSet_iff i,
    fun k => (f_mem_readSet_iff_writeSet i k).trans (f_mem_writeSet_iff hl k), f_mem_writeSet_iff hl,
    fun k => (e_mem_readSet_iff_writeSet i k).trans (e_mem_writeSet_iff hl k), e_mem_writeSet_iff hl,
    fprc_mem_readSet_iff i, fprc_mem_writeSet_iff i, mem_mem_readSet_iff i, mem_mem_writeSet_iff i⟩

end Sys2Proof.Machine
end

section
/-! SUPPORT. One dispatch group whose words all run: O1, O29 and O30. A group is fetched word by word, each word's
result is its own on the state before the group, and the merge gives each word's resources and lanes their values,
since no other word writes them or runs on them. -/

namespace Sys2Proof.Machine

/-! ### Fetching (R256, R257) -/

/-- Word `j` of a group: its instruction and the lanes it runs on (R257). -/
def State.slotAt (s : State) (g : Nat → Instr) (j : Nat) : Slot :=
  ⟨issueOf s.params.w s.pc (g 0).fields.nf.val j, g j⟩

theorem State.fetchWord_of_decodeWord {s : State} {idx : Nat} {word : Word32} {i : Instr}
    (hprog : s.prog[idx]? = some word) (hdecode : decodeWord word = .ok i) (hlegal : i.legal = true) :
    s.fetchWord idx = .ok i := by
  simp [State.fetchWord, hprog, hdecode, hlegal]

theorem State.fetchRest_of_fetchWord {s : State} {g : Nat → Instr} {count j : Nat}
    (h : ∀ k, j ≤ k → k < j + count → s.fetchWord (s.pc + k) = .ok (g k)) :
    s.fetchRest (g 0).fields.nf.val count j = .ok ((List.range' j count).map (s.slotAt g)) := by
  induction count generalizing j with
  | zero => rfl
  | succ count ih =>
    have hrest := ih (j := j + 1) fun k hjk hk => h k (by omega) (by omega)
    simp only [State.fetchRest, h j le_rfl (by omega), hrest]
    rfl

theorem State.fetchGroup_of_fetchWord {s : State} {g : Nat → Instr} {n : Nat} (hn : (g 0).fields.n.val = n)
    (hcounts : groupCountsLegal s.params.w n (g 0).fields.nf.val = true) (hinside : s.pc + n ≤ s.progLen)
    (h : ∀ j, j < n → s.fetchWord (s.pc + j) = .ok (g j)) :
    s.fetchGroup = .ok ((List.range n).map (s.slotAt g)) := by
  obtain ⟨hpos, -⟩ := (groupCountsLegal_iff _ _ _).mp hcounts
  obtain ⟨m, rfl⟩ := Nat.exists_eq_succ_of_ne_zero hpos
  have hrest := State.fetchRest_of_fetchWord (s := s) (g := g) (count := m) (j := 1) fun k _ hk => h k (by omega)
  have hfirst : s.fetchWord s.pc = .ok (g 0) := h 0 (Nat.succ_pos m)
  simp only [State.fetchGroup, hfirst, hn, hcounts, hinside, Nat.succ_sub_one, hrest, if_true, List.range_eq_range']
  rfl

/-! ### Running (R258) -/

/-- Words that raise nothing all have their results. -/
theorem State.runSlots_of_exec {s : State} {results : List (Slot × State)}
    (h : ∀ result ∈ results,
      exec result.1.instr (s.withIssue result.1.issue) = .next result.2 ∧ result.2.fault = none) :
    s.runSlots (results.map Prod.fst) = .next (.ok results) := by
  induction results with
  | nil => rfl
  | cons result rest ih =>
    obtain ⟨⟨hexec, hfault⟩, hrest⟩ := List.forall_mem_cons.mp h
    have hrun : s.runSlot result.1 = .next result.2 := hexec
    simp only [List.map_cons, State.runSlots, hrun, hfault, ih hrest]

/-! ### Conflicts in a group (R258) -/

theorem conflictWith_eq_none_iff {q : Slot} {slots : List Slot} :
    conflictWith q slots = none ↔ ∀ p ∈ slots, conflicts q.instr p.instr = false := by
  induction slots with
  | nil => simp [conflictWith]
  | cons p rest ih =>
    simp only [conflictWith, List.forall_mem_cons]
    split
    · next x hx =>
      have hconflict : conflicts q.instr p.instr = true :=
        conflicts_iff_exists_conflictOn.mpr ⟨x, List.find?_some hx⟩
      simp [hconflict]
    · next hnone =>
      have hquiet : conflicts q.instr p.instr = false := List.any_eq_false.mpr (List.find?_eq_none.mp hnone)
      simp [hquiet, ih]

theorem conflictWith_eq_some {q p : Slot} {slots : List Slot} {x : Resource}
    (h : conflictWith q slots = some (p, x)) : p ∈ slots ∧ conflictOn q.instr p.instr x = true := by
  induction slots with
  | nil => cases h
  | cons p' rest ih =>
    simp only [conflictWith] at h
    split at h
    · next y hy =>
      cases h
      exact ⟨List.mem_cons_self, List.find?_some hy⟩
    · obtain ⟨hp, hx⟩ := ih h
      exact ⟨List.mem_cons_of_mem _ hp, hx⟩

theorem firstConflict_eq_none_iff {slots : List Slot} :
    firstConflict slots = none ↔ slots.Pairwise fun q p => conflicts q.instr p.instr = false := by
  induction slots with
  | nil => simp [firstConflict]
  | cons q rest ih =>
    simp only [firstConflict, List.pairwise_cons, ← conflictWith_eq_none_iff, ← ih]
    split
    · next h => simp [h]
    · next h => simp [h]

/-- The pair that is recorded stands in the group in this order, and conflicts. -/
theorem firstConflict_eq_some {slots : List Slot} {q p : Slot} {x : Resource}
    (h : firstConflict slots = some (q, p, x)) : [q, p].Sublist slots ∧ conflictOn q.instr p.instr x = true := by
  induction slots with
  | nil => cases h
  | cons q' rest ih =>
    simp only [firstConflict] at h
    split at h
    · next hw =>
      cases h
      obtain ⟨hp, hx⟩ := conflictWith_eq_some hw
      exact ⟨(List.singleton_sublist.mpr hp).cons_cons _, hx⟩
    · obtain ⟨hsub, hx⟩ := ih h
      exact ⟨hsub.cons _, hx⟩

/-! ### The step (R258, R414) -/

theorem step_of_dispatching {s : State} (hs : Dispatching s) : step s = s.groupStep := by
  obtain ⟨hparams, hfault, hagent, hphase, hinside⟩ := hs
  simp only [step, hparams, hfault, State.agentStep, hagent, State.interpretStep, hphase, State.dispatchStep, hinside,
    if_true]

/-- A word's fault is the step's, and nothing else happens (R414, R415). -/
theorem step_of_runSlots_error {s : State} {slots : List Slot} {rec : FaultRecord} (hs : Dispatching s)
    (hfetch : s.fetchGroup = .ok slots) (hrun : s.runSlots slots = .next (.error rec)) :
    step s = .next (s.raise rec) := by
  rw [step_of_dispatching hs, State.groupStep, hfetch]
  simp only [hrun]

theorem step_of_firstConflict {s : State} {slots : List Slot} {results : List (Slot × State)} {q p : Slot}
    {x : Resource} (hs : Dispatching s) (hfetch : s.fetchGroup = .ok slots)
    (hrun : s.runSlots slots = .next (.ok results)) (hconflict : firstConflict slots = some (q, p, x)) :
    step s = .next (s.raise (.groupConflict s.pc q.issue.word p.issue.word x)) := by
  rw [step_of_dispatching hs, State.groupStep, hfetch]
  simp only [hrun, hconflict]

theorem step_of_no_conflict {s : State} {slots : List Slot} {results : List (Slot × State)} (hs : Dispatching s)
    (hfetch : s.fetchGroup = .ok slots) (hrun : s.runSlots slots = .next (.ok results))
    (hconflict : firstConflict slots = none) :
    step s = .next ((results.foldl State.applyResult s).resync slots.length) := by
  rw [step_of_dispatching hs, State.groupStep, hfetch]
  simp only [hrun, hconflict]

/-- Settles O1: a group of one word has no conflict, and the word's result is what the merge takes from it. -/
theorem stepRunsDecodedInstruction : Obligations.StepRunsDecodedInstruction := by
  intro s t word i hs hprog hdecode hhead hn hexec
  obtain ⟨hlegal, hcounts⟩ := Bool.and_eq_true_iff.mp hhead
  rw [hn] at hcounts
  have hfetch : s.fetchGroup = .ok [s.slotAt (fun _ => i) 0] := by
    refine State.fetchGroup_of_fetchWord (g := fun _ => i) (n := 1) (by rw [hn]; rfl) hcounts hs.inside fun j hj => ?_
    obtain rfl : j = 0 := by omega
    exact State.fetchWord_of_decodeWord hprog hdecode hlegal
  refine ⟨fun rec hrec => step_of_runSlots_error hs hfetch ?_, fun hnone => ?_⟩
  · have hrun : s.runSlot (s.slotAt (fun _ => i) 0) = .next t := hexec
    simp only [State.runSlots, hrun, hrec]
  · have hrun := State.runSlots_of_exec (s := s) (results := [(s.slotAt (fun _ => i) 0, t)])
      (List.forall_mem_singleton.mpr ⟨hexec, hnone⟩)
    rw [step_of_no_conflict hs hfetch hrun rfl, withIssue_eq_applyResult hexec hnone s.issue,
      ← State.withIssue_applyResult]
    rfl

/-! ### The merge (R258, R271) -/

theorem State.foldl_applyResult_fault (s : State) (results : List (Slot × State)) :
    (results.foldl State.applyResult s).fault = s.fault :=
  List.foldlRecOn (motive := fun u : State => u.fault = s.fault) _ _ rfl fun u hu result _ =>
    (u.applyResult_fault result).trans hu

theorem State.foldl_applyResult_of_not_mem {results : List (Slot × State)} {x : Resource}
    (h : ∀ result ∈ results, x ∉ writeSet result.1.instr) (s : State) :
    SameResource x s (results.foldl State.applyResult s) :=
  List.foldlRecOn (motive := SameResource x s) _ _ (.refl x s) fun u hu result hr =>
    hu.trans (u.applyResult_of_not_mem result (h result hr))

theorem State.foldl_applyResult_fprc (s : State) (results : List (Slot × State)) :
    SameResource .fprc s (results.foldl State.applyResult s) :=
  List.foldlRecOn (motive := SameResource .fprc s) _ _ (.refl .fprc s) fun u hu result _ =>
    hu.trans (u.applyResult_fprc result)

/-- Where no later word conflicts with it, a word's resources are as its own result has them. -/
theorem State.foldl_applyResult_of_mem {results : List (Slot × State)}
    (hconflict : results.Pairwise fun a b => conflicts a.1.instr b.1.instr = false) {result : Slot × State}
    (hr : result ∈ results) {x : Resource} (hx : x ∈ writeSet result.1.instr) (hfprc : x ≠ .fprc) (s : State) :
    SameResource x result.2 (results.foldl State.applyResult s) := by
  induction results generalizing s with
  | nil => cases hr
  | cons first rest ih =>
    obtain ⟨hfirst, hrest⟩ := List.pairwise_cons.mp hconflict
    rcases List.mem_cons.mp hr with rfl | hr
    · refine (s.applyResult_of_mem result hx hfprc).trans (State.foldl_applyResult_of_not_mem (fun later hl => ?_) _)
      obtain ⟨hwrites, -⟩ := conflicts_eq_false_iff.mp (hfirst later hl)
      exact (hwrites x hx).2
    · exact ih hrest hr _

theorem State.getElem?_foldl_applyResult_of_not_mem {results : List (Slot × State)} {k : Nat}
    (h : ∀ result ∈ results, k ∉ result.1.issue.lanes) (s : State) :
    (results.foldl State.applyResult s).lanes[k]? = s.lanes[k]? :=
  List.foldlRecOn (motive := fun u : State => u.lanes[k]? = s.lanes[k]?) _ _ rfl fun u hu result hr => by
    rw [State.getElem?_applyResult_lanes, if_neg (h result hr), hu]

/-- Where the later words run on other lanes, a word's lanes are as its own result has them. -/
theorem State.getElem?_foldl_applyResult_of_mem {results : List (Slot × State)}
    (hlanes : results.Pairwise fun a b => ∀ k ∈ a.1.issue.lanes, k ∉ b.1.issue.lanes) {result : Slot × State}
    (hr : result ∈ results) {k : Nat} (hk : k ∈ result.1.issue.lanes) {s : State}
    (hlen : result.2.lanes.length = s.lanes.length) :
    (results.foldl State.applyResult s).lanes[k]? = result.2.lanes[k]? := by
  induction results generalizing s with
  | nil => cases hr
  | cons first rest ih =>
    obtain ⟨hfirst, hrest⟩ := List.pairwise_cons.mp hlanes
    rcases List.mem_cons.mp hr with rfl | hr
    · rw [List.foldl_cons, State.getElem?_foldl_applyResult_of_not_mem fun later hl => hfirst later hl k hk,
        State.getElem?_applyResult_lanes, if_pos hk]
      by_cases hlt : k < s.lanes.length
      · rw [List.getElem?_eq_getElem hlt, List.getElem?_eq_getElem (hlen ▸ hlt)]
        rfl
      · rw [List.getElem?_eq_none (Nat.le_of_not_lt hlt), List.getElem?_eq_none (hlen ▸ Nat.le_of_not_lt hlt)]
        rfl
    · exact ih hrest hr (hlen.trans (State.groupEffect_lanes_length s [first]).symm)

/-! ### The lanes of a group's words (R257) -/

theorem issueOf_word (w pc nf j : Nat) : (issueOf w pc nf j).word = pc + j := by
  unfold issueOf
  split_ifs <;> rfl

/-- With more than one lane, the first `nf` words take a pair of lanes each, and the others the lanes after them. -/
theorem mem_issueOf_lanes_iff {w : Nat} (hw : w ≠ 1) (pc nf j k : Nat) :
    k ∈ (issueOf w pc nf j).lanes ↔ if j < nf then k = 2 * j ∨ k = 2 * j + 1 else k = 2 * nf + (j - nf) := by
  unfold issueOf Issue.lanes
  by_cases hj : j < nf <;> simp [hw, hj]

/-- With more than one lane, the words of a group run on lanes of their own. -/
theorem issueOf_lanes_disjoint {w i j : Nat} (pc nf : Nat) (hw : w ≠ 1) (hij : i < j) :
    ∀ k ∈ (issueOf w pc nf i).lanes, k ∉ (issueOf w pc nf j).lanes := by
  intro k hki hkj
  rw [mem_issueOf_lanes_iff hw] at hki hkj
  split_ifs at hki hkj <;> omega

/-! ### A group whose words raise nothing -/

/-- The `n` words `g` at `pc` are a legal group, and each raises nothing on the state before it, its result being
`own` (R256–R258). -/
structure GroupRuns (s : State) (g : Nat → Instr) (own : Nat → State) (n : Nat) : Prop where
  count : (g 0).fields.n.val = n
  head : (g 0).wellFormedHead s.params.w = true
  inside : s.pc + n ≤ s.progLen
  words : ∀ j, j < n → ∃ word, s.prog[s.pc + j]? = some word ∧ decodeWord word = .ok (g j) ∧
    (g j).wellFormed = true ∧ exec (g j) (s.withIssue (s.slotAt g j).issue) = .next (own j) ∧ (own j).fault = none

namespace GroupRuns

variable {s : State} {g : Nat → Instr} {own : Nat → State} {n : Nat} (h : GroupRuns s g own n)
include h

theorem counts : groupCountsLegal s.params.w n (g 0).fields.nf.val = true := by
  obtain ⟨-, hcounts⟩ := Bool.and_eq_true_iff.mp h.head
  rwa [h.count] at hcounts

theorem exec_next {j : Nat} (hj : j < n) :
    exec (g j) (s.withIssue (s.slotAt g j).issue) = .next (own j) ∧ (own j).fault = none := by
  obtain ⟨-, -, -, -, hexec⟩ := h.words j hj
  exact hexec

theorem fetchGroup : s.fetchGroup = .ok ((List.range n).map (s.slotAt g)) := by
  refine State.fetchGroup_of_fetchWord h.count h.counts h.inside fun j hj => ?_
  obtain ⟨word, hprog, hdecode, hlegal, -⟩ := h.words j hj
  exact State.fetchWord_of_decodeWord hprog hdecode hlegal

theorem runSlots : s.runSlots ((List.range n).map (s.slotAt g)) =
    .next (.ok ((List.range n).map fun j => (s.slotAt g j, own j))) := by
  have hrun := State.runSlots_of_exec (s := s) (results := (List.range n).map fun j => (s.slotAt g j, own j)) <|
    List.forall_mem_map.mpr fun j hj => h.exec_next (List.mem_range.mp hj)
  rwa [List.map_map] at hrun

theorem lanes_length {j : Nat} (hj : j < n) : (own j).lanes.length = s.lanes.length := by
  obtain ⟨hexec, hfault⟩ := h.exec_next hj
  rw [exec_eq_applyResult_self hexec hfault]
  exact State.groupEffect_lanes_length (s.withIssue (s.slotAt g j).issue) [_]

theorem fprc {j : Nat} (hj : j < n) : SameResource .fprc (own j) s := by
  obtain ⟨hexec, -⟩ := h.exec_next hj
  have hframe := exec_frame hexec
  unfold InstructionFrame at hframe
  rw [hframe]
  rfl

/-- The words of the group run on lanes of their own. -/
theorem lanes_disjoint : ((List.range n).map fun j => (s.slotAt g j, own j)).Pairwise
    fun a b => ∀ k ∈ a.1.issue.lanes, k ∉ b.1.issue.lanes := by
  obtain ⟨-, hw, -⟩ := (groupCountsLegal_iff _ _ _).mp h.counts
  refine List.pairwise_map.mpr (List.pairwise_lt_range.imp_of_mem fun hi hj hij => ?_)
  have hjn := List.mem_range.mp hj
  exact issueOf_lanes_disjoint _ _ (by omega) hij

end GroupRuns

/-- Settles O29: the first conflict is a pair of the group's words in order, and its fault is the step's. -/
theorem conflictingGroupFaults : Obligations.ConflictingGroupFaults := by
  intro s g own hs n nf hhead hinside hwords ⟨i, j, hij, hj, hconflict⟩
  have h : GroupRuns s g own n := ⟨rfl, hhead, hinside, hwords⟩
  cases hfirst : firstConflict ((List.range n).map (s.slotAt g)) with
  | none =>
    have hquiet := List.pairwise_map.mp (firstConflict_eq_none_iff.mp hfirst)
    have hij' := List.pairwise_iff_getElem.mp hquiet i j (by simpa using hij.trans hj) (by simpa using hj) hij
    simp [State.slotAt, hconflict] at hij'
  | some found =>
    obtain ⟨q, p, x⟩ := found
    obtain ⟨hsub, hx⟩ := firstConflict_eq_some hfirst
    obtain ⟨js, hjs, hmap⟩ := List.sublist_map_iff.mp hsub
    obtain ⟨i', js', rfl, rfl, hmap'⟩ := List.map_eq_cons_iff.mp hmap.symm
    obtain ⟨j', rfl, rfl⟩ := List.map_eq_singleton_iff.mp hmap'
    have hij' : i' < j' := List.rel_of_pairwise_cons (List.pairwise_lt_range.sublist hjs) List.mem_cons_self
    have hj' : j' < n := List.mem_range.mp (hjs.subset (List.mem_cons_of_mem _ List.mem_cons_self))
    refine ⟨i', j', x, hij', hj', hx, ?_⟩
    rw [step_of_firstConflict hs h.fetchGroup h.runSlots hfirst, State.slotAt, State.slotAt, issueOf_word,
      issueOf_word]

/-- Settles O30: the step resynchronises the merge of the words' results, and each resource and each lane is taken from
the one word that writes it or runs on it. -/
theorem groupAppliesEveryWord : Obligations.GroupAppliesEveryWord := by
  intro s g own hs n nf hhead hinside hwords hquiet
  have h : GroupRuns s g own n := ⟨rfl, hhead, hinside, hwords⟩
  have hpairwise : (List.range n).Pairwise fun i j => conflicts (g i) (g j) = false :=
    List.pairwise_lt_range.imp_of_mem fun _ hj hij => hquiet _ _ hij (List.mem_range.mp hj)
  have hstep := step_of_no_conflict hs h.fetchGroup h.runSlots
    (firstConflict_eq_none_iff.mpr (List.pairwise_map.mpr hpairwise))
  rw [List.length_map, List.length_range] at hstep
  refine ⟨_, hstep, InstructionFrame.foldl State.applyResult_frame _ s,
    (s.foldl_applyResult_fault _).trans hs.fault, fun j hj x hx => ?_, fun x hx => ?_, fun j hj k hk => ?_,
    fun k hk => ?_⟩
  · by_cases hfprc : x = .fprc
    · subst hfprc
      exact (h.fprc hj).trans (s.foldl_applyResult_fprc _)
    · exact State.foldl_applyResult_of_mem (List.pairwise_map.mpr hpairwise)
        (List.mem_map_of_mem (List.mem_range.mpr hj)) hx hfprc s
  · exact State.foldl_applyResult_of_not_mem (List.forall_mem_map.mpr fun j hj => hx j (List.mem_range.mp hj)) s
  · exact State.getElem?_foldl_applyResult_of_mem h.lanes_disjoint (List.mem_map_of_mem (List.mem_range.mpr hj)) hk
      (h.lanes_length hj)
  · exact State.getElem?_foldl_applyResult_of_not_mem
      (List.forall_mem_map.mpr fun j hj => hk j (List.mem_range.mp hj)) s

end Sys2Proof.Machine
end

section
/-! SUPPORT. Seeding and write-back, O34 and O35. The registers are read off the definitions; the two stored rows are
lists of word stores, the second over the first where the rows are one; the output is the register region's bytes. -/

namespace Sys2Proof.Machine

/-! ### Halves of a word (R85, R250) -/

/-- The two words of a floating pair are a word's halves, converted (R85). -/
theorem cvtPair_lo (v : Word64) : cvtPair v .lo = cvtI32 (v.extractLsb' 0 32) :=
  congrArg cvtI32 (lowWord_eq_extractLsb' v)

theorem cvtPair_hi (v : Word64) : cvtPair v .hi = cvtI32 (v.extractLsb' 32 32) :=
  congrArg cvtI32 (highWord_eq_extractLsb' v)

/-! ### Seeding (R250–R255) -/

theorem State.isWritten_of_mem_seedPlaces (s : State) (hd : s.decoded = true) :
    ∀ l ∈ seedPlaces, s.isWritten l = true := by
  simp [seedPlaces, indices4, indices8, State.isWritten, hd]

/-- In SEED the step is the seeding (R269), which a decoded program does not stop. -/
theorem step_of_seed {s : State} (hok : s.params.ok = true) (hf : s.fault = none) (ha : s.agent = .interpret)
    (hp : s.phase = .seed) (hd : s.decoded = true) : step s = .next s.seedRegisters.startDispatch := by
  have hwritten := (s.firstUnwritten_eq_none _).mpr (s.isWritten_of_mem_seedPlaces hd)
  simp only [step, hok, hf, State.agentStep, ha, State.interpretStep, hp, State.seedStep, hwritten, if_true]

/-- Settles O34: the step is the seeding, whose registers and addresses are read off. -/
theorem seedingResult : Obligations.SeedingResult := by
  intro s hok hf ha hp hd mix a0 a1
  have ha0 : s.seedAddr0 = a0 := rfl
  have ha1 : s.seedAddr1 = a1 := by
    rw [State.seedAddr1, highWord_eq_extractLsb']
    rfl
  obtain ⟨haligned0, hbelow0⟩ := and_rowMask_row (s.spAddr0 ^^^ mix.extractLsb' 0 32)
  obtain ⟨haligned1, hbelow1⟩ := and_rowMask_row (s.spAddr1 ^^^ mix.extractLsb' 32 32)
  refine ⟨_, step_of_seed hok hf ha hp hd, ha0, ha1, haligned0, hbelow0, haligned1, hbelow1,
    fun k => ?_, fun k => ?_, fun k => ?_, rfl, rfl, rfl, rfl, rfl⟩
  · rw [← ha0]
    exact Bank8.get_ofFn _ k
  · have hk : s.seedRegisters.startDispatch.fReg k =
        FReg.ofHalves (cvtPair (s.spRead (s.seedAddr1.toNat + 8 * k.val))) :=
      Bank4.get_ofFn _ k
    rw [hk, ← cvtPair_lo, ← cvtPair_hi, ← ha1]
    exact ⟨rfl, rfl⟩
  · have hk : s.seedRegisters.startDispatch.eReg k = FReg.ofHalves fun h =>
        maskE (cvtPair (s.spRead (s.seedAddr1.toNat + 8 * (4 + k.val))) h) (s.eMask h) :=
      Bank4.get_ofFn _ k
    rw [hk, ← cvtPair_lo, ← cvtPair_hi, ← ha1]
    exact ⟨rfl, rfl⟩

/-! ### Lists of word stores -/

/-- Store the words one after the other, each at its address. -/
def Memory.storeWords (m : Memory) (stores : List (Nat × Word64)) : Memory :=
  stores.foldl (fun m p => m.writeWord p.1 p.2) m

theorem Memory.wf_storeWords {m : Memory} (hm : m.wf = true) (stores : List (Nat × Word64)) :
    (m.storeWords stores).wf = true :=
  List.foldlRecOn (motive := fun m : Memory => m.wf = true) _ _ hm fun m hm p _ => m.wf_writeWord p.1 p.2 hm

theorem Memory.read_storeWords_outside (m : Memory) {stores : List (Nat × Word64)} {b : Nat}
    (h : ∀ p ∈ stores, b < p.1 ∨ p.1 + 8 ≤ b) : (m.storeWords stores).read b = m.read b :=
  List.foldlRecOn (motive := fun n : Memory => n.read b = m.read b) _ _ rfl fun n hn p hp =>
    (n.read_writeWord_outside p.1 p.2 (h p hp)).trans hn

theorem Memory.readWord_storeWords_apart (m : Memory) {stores : List (Nat × Word64)} {b : Nat}
    (h : ∀ p ∈ stores, b + 8 ≤ p.1 ∨ p.1 + 8 ≤ b) : (m.storeWords stores).readWord b = m.readWord b :=
  List.foldlRecOn (motive := fun n : Memory => n.readWord b = m.readWord b) _ _ rfl fun n hn p hp =>
    (n.readWord_writeWord_apart p.2 (h p hp)).trans hn

/-- A word of rising stores that do not overlap reads back. -/
theorem Memory.readWord_storeWords {m : Memory} (hm : m.wf = true) {stores : List (Nat × Word64)}
    (hrising : stores.Pairwise fun p q => p.1 + 8 ≤ q.1) {a : Nat} {v : Word64} (hp : (a, v) ∈ stores) :
    (m.storeWords stores).readWord a = v := by
  induction stores generalizing m with
  | nil => cases hp
  | cons q rest ih =>
    obtain ⟨hq, hrest⟩ := List.pairwise_cons.mp hrising
    rcases List.mem_cons.mp hp with rfl | hp
    · exact (Memory.readWord_storeWords_apart _ fun p' hp' => .inl (hq p' hp')).trans
        (Memory.readWord_writeWord_same a v hm)
    · exact ih (m.wf_writeWord q.1 q.2 hm) hrest hp

/-! ### The two rows of a write-back (R264, R266) -/

/-- The stores of `r` to the row at `a` (R264). -/
def regRow (a : Nat) (r : Bank8 Word64) : List (Nat × Word64) := indices8.map fun k => (a + 8 * k.val, r.get k)

/-- The stores of F to the row at `a` (R266). -/
def fRow (a : Nat) (f : Bank4 FReg) : List (Nat × Word64) :=
  (indices4.map fun k => [(a + 16 * k.val, (f.get k).lo), (a + 16 * k.val + 8, (f.get k).hi)]).flatten

theorem State.storeRegs_scratch (s : State) :
    s.storeRegs.scratch = s.scratch.storeWords (regRow s.spAddr1.toNat s.r) := by
  unfold State.storeRegs Memory.storeWords regRow
  rw [List.foldl_map]
  exact (List.foldl_hom State.scratch fun _ _ => rfl).symm

theorem State.storeF_scratch (s : State) :
    s.storeF.scratch = s.scratch.storeWords (fRow s.spAddr0.toNat s.f) := by
  unfold State.storeF Memory.storeWords fRow
  rw [List.foldl_flatten, List.foldl_map]
  exact (List.foldl_hom State.scratch fun _ _ => rfl).symm

theorem State.writtenBack_scratch (s : State) :
    s.writtenBack.scratch =
      (s.scratch.storeWords (regRow s.spAddr1.toNat s.mixedRegs)).storeWords (fRow s.spAddr0.toNat s.foldedF) := by
  unfold State.writtenBack
  rw [State.storeF_scratch, State.storeRegs_only_scratch, State.storeRegs_scratch]

theorem mem_regRow (a : Nat) (r : Bank8 Word64) (k : Fin 8) : (a + 8 * k.val, r.get k) ∈ regRow a r :=
  List.mem_map_of_mem (by fin_cases k <;> decide)

theorem mem_fRow (a : Nat) (f : Bank4 FReg) (k : Fin 4) :
    (a + 16 * k.val, (f.get k).lo) ∈ fRow a f ∧ (a + 16 * k.val + 8, (f.get k).hi) ∈ fRow a f := by
  have hk : k ∈ indices4 := by fin_cases k <;> decide
  have hpair := List.mem_map_of_mem (f := fun k : Fin 4 =>
    [(a + 16 * k.val, (f.get k).lo), (a + 16 * k.val + 8, (f.get k).hi)]) hk
  exact ⟨List.mem_flatten_of_mem hpair List.mem_cons_self,
    List.mem_flatten_of_mem hpair (List.mem_cons_of_mem _ List.mem_cons_self)⟩

/-- The stores of a row lie inside its 64 bytes. -/
theorem regRow_inside {a : Nat} {r : Bank8 Word64} : ∀ p ∈ regRow a r, a ≤ p.1 ∧ p.1 + 8 ≤ a + 64 :=
  List.forall_mem_map.mpr fun k _ => by omega

theorem fRow_inside {a : Nat} {f : Bank4 FReg} : ∀ p ∈ fRow a f, a ≤ p.1 ∧ p.1 + 8 ≤ a + 64 := by
  simp only [fRow, List.forall_mem_flatten, List.forall_mem_map, List.forall_mem_cons]
  exact fun k _ => ⟨by omega, by omega, nofun⟩

theorem regRow_rising (a : Nat) (r : Bank8 Word64) : (regRow a r).Pairwise fun p q => p.1 + 8 ≤ q.1 := by
  have hindices : indices8.Pairwise fun j k => j.val < k.val := by decide
  exact List.pairwise_map.mpr (hindices.imp fun hjk => by omega)

theorem fRow_rising (a : Nat) (f : Bank4 FReg) : (fRow a f).Pairwise fun p q => p.1 + 8 ≤ q.1 := by
  simp [fRow, indices4]

section

variable {s : State}

/-- F's row stands as stored (R266). -/
theorem State.writtenBack_spRead_f (hm : s.scratch.wf = true) (k : Fin 4) :
    s.writtenBack.spRead (s.spAddr0.toNat + 16 * k.val) = (s.foldedF.get k).lo ∧
    s.writtenBack.spRead (s.spAddr0.toNat + 16 * k.val + 8) = (s.foldedF.get k).hi := by
  obtain ⟨hlo, hhi⟩ := mem_fRow s.spAddr0.toNat s.foldedF k
  have hwf := Memory.wf_storeWords hm (regRow s.spAddr1.toNat s.mixedRegs)
  rw [State.spRead, State.spRead, State.writtenBack_scratch]
  exact ⟨Memory.readWord_storeWords hwf (fRow_rising _ _) hlo, Memory.readWord_storeWords hwf (fRow_rising _ _) hhi⟩

/-- The row of `r` stands as stored where F's row is another one (R264). -/
theorem State.writtenBack_spRead_r (hm : s.scratch.wf = true) (h0 : s.spAddr0.toNat % 64 = 0)
    (h1 : s.spAddr1.toNat % 64 = 0) (hne : s.spAddr0.toNat ≠ s.spAddr1.toNat) (k : Fin 8) :
    s.writtenBack.spRead (s.spAddr1.toNat + 8 * k.val) = s.mixedRegs.get k := by
  rw [State.spRead, State.writtenBack_scratch, Memory.readWord_storeWords_apart _ fun p hp => ?_]
  · exact Memory.readWord_storeWords hm (regRow_rising _ _) (mem_regRow _ _ k)
  · have hinside := fRow_inside p hp
    omega

/-- No other byte is stored (R264, R266). -/
theorem State.writtenBack_read_outside {b : Nat} (h0 : b < s.spAddr0.toNat ∨ s.spAddr0.toNat + 64 ≤ b)
    (h1 : b < s.spAddr1.toNat ∨ s.spAddr1.toNat + 64 ≤ b) : s.writtenBack.scratch.read b = s.scratch.read b := by
  rw [State.writtenBack_scratch, Memory.read_storeWords_outside _ fun p hp => ?_,
    Memory.read_storeWords_outside _ fun p hp => ?_]
  · have hinside := regRow_inside p hp
    omega
  · have hinside := fRow_inside p hp
    omega

end

/-! ### The final output (R38, R270) -/

theorem State.length_finalOutput (s : State) : s.finalOutput.length = 192 := by
  simp [State.finalOutput_eq, indices8, indices4, length_word64Bytes]

/-- Byte `b` of the output's word `k` is that of the register region's. -/
theorem State.getElem?_finalOutput (s : State) {off k b : Nat} {v : Word64} (hoff : off = 8 * k + b) (hb : b < 8)
    (hk : k < 24) (hv : s.regionWords[k]? = some v) : s.finalOutput[off]? = some (v.extractLsb' (8 * b) 8) := by
  have hregion : s.regionBytes[off]? = s.finalOutput[off]? :=
    List.getElem?_append_left (by rw [State.length_finalOutput]; omega)
  rw [← hregion, hoff, State.regionBytes_eq, getElem?_flatten_word64Bytes _ _ hb, hv, Option.map_some]

theorem State.getElem?_finalOutput_pair (s : State) {base b : Nat} {x : FReg} (k : Fin 4) (hb : b < 8)
    (hbase : base ≤ 16)
    (hx : s.regionWords[base + 2 * k.val]? = some x.lo ∧ s.regionWords[base + 1 + 2 * k.val]? = some x.hi) :
    s.finalOutput[8 * base + 16 * k.val + b]? = some (x.lo.extractLsb' (8 * b) 8) ∧
    s.finalOutput[8 * base + 16 * k.val + 8 + b]? = some (x.hi.extractLsb' (8 * b) 8) := by
  obtain ⟨hlo, hhi⟩ := hx
  exact ⟨s.getElem?_finalOutput (by omega) hb (by omega) hlo, s.getElem?_finalOutput (by omega) hb (by omega) hhi⟩

/-! ### The write-back (R262–R267) -/

/-- The step of a seeded round whose dataset item is in range is the write-back (R269, R414). -/
theorem step_of_written_back {s : State} (hok : s.params.ok = true) (hf : s.fault = none) (ha : s.agent = .interpret)
    (hp : s.phase = .writeback) (hd : s.decoded = true) (hs : s.seeded = true) (hinside : s.dsPast = none) :
    step s = .next s.writtenBack.endRound := by
  have hwritten : s.firstUnwritten writebackPlaces = none := (s.firstUnwritten_eq_none _).mpr fun l hl =>
    State.isWritten_of_seeded hd hs (writebackPlaces_not_inBuffer l hl)
  rw [step_of_writeback hok hf ha hp]
  simp only [State.writebackStep, hwritten, hinside]

/-- What the round's end hands over (R270). -/
theorem State.endRound_output (s : State) :
    s.endRound.output = if s.last = true ∧ s.numIter ≤ s.round + 1 then some s.endRound.finalOutput else s.output := by
  simp only [State.endRound, Bool.and_eq_true, decide_eq_true_eq, and_comm]
  rfl

theorem State.writtenBack_endRound_output (s : State) :
    s.writtenBack.endRound.output =
      if s.last = true ∧ s.numIter ≤ s.round + 1 then some s.writtenBack.endRound.finalOutput else s.output := by
  rw [State.endRound_output]
  rw [State.writtenBack_eq]

/-- Settles O35: the step is the write-back, its scalars and registers read off, its stores by rows, and its output by
the words of the register region. -/
theorem writebackResult : Obligations.WritebackResult := by
  intro s hok hf ha hp hd hs hmem haddr h0 h1 a0 a1
  have hwf : s.scratch.wf = true := ((Memory.fits_iff _ _).mp hmem.scratch).1
  have hstep := step_of_written_back hok hf ha hp hd hs haddr.dsPast
  have ht := s.endRound_writtenBack
  have hout := s.writtenBack_endRound_output
  generalize s.writtenBack.endRound = t at hstep ht hout
  have hr (k : Fin 8) : t.reg k = s.mixedRegs.get k := congrArg (fun t => t.reg k) ht
  have hfold (k : Fin 4) : t.fReg k = s.foldedF.get k := congrArg (fun t => t.fReg k) ht
  have hscratch : t.scratch = s.writtenBack.scratch := by rw [ht]
  have hspRead (a : Nat) : t.spRead a = s.writtenBack.spRead a := congrArg (Memory.readWord · a) hscratch
  refine ⟨t, hstep, congrArg State.ma ht, congrArg State.mx ht, fun k => ?_, fun k h => ?_, fun k => ?_,
    fun hne k => ?_, fun b hb0 hb1 => ?_, congrArg State.spAddr0 ht, congrArg State.spAddr1 ht,
    congrArg State.round ht, ?_, ?_, ?_, ?_⟩
  · rw [hr, State.mixedRegs, Bank8.get_ofFn]
    rfl
  · rw [hfold, State.foldedF, Bank4.get_ofFn, FReg.half_ofHalves]
  · rw [hspRead, hspRead, hfold]
    exact State.writtenBack_spRead_f hwf k
  · rw [hspRead, hr]
    exact State.writtenBack_spRead_r hwf h0 h1 hne k
  · rw [hscratch]
    exact State.writtenBack_read_outside hb0 hb1
  · rw [ht]
    simp only [← Nat.not_le, ite_not]
  · rw [ht]
    simp only [← Nat.not_le, ite_not]
  · split
    · next hlast =>
      rw [if_pos hlast] at hout
      refine ⟨_, hout, t.length_finalOutput, fun k b hb => t.getElem?_finalOutput rfl hb (by omega) (t.regionWords_r k),
        fun k b hb => ?_⟩
      obtain ⟨hflo, hfhi⟩ := t.getElem?_finalOutput_pair k hb (by decide) (t.regionWords_f k)
      obtain ⟨helo, hehi⟩ := t.getElem?_finalOutput_pair k hb (by decide) (t.regionWords_e k)
      exact ⟨hflo, hfhi, helo, hehi⟩
    · next hlast => rwa [if_neg hlast] at hout
  · rw [ht]

end Sys2Proof.Machine
end

section
/-! SUPPORT. O36, the host's interactions: the step takes the first interaction queued, and what it does with it is read
off, interaction by interaction. -/

namespace Sys2Proof.Machine

/-- In the host's turn the step takes the first interaction queued (R426; log 7). -/
theorem step_of_hostQueue {s : State} {cmd : HostCmd} {queue : List HostCmd} (hok : s.params.ok = true)
    (hf : s.fault = none) (ha : s.agent = .host) (hq : s.hostQueue = cmd :: queue) :
    step s = s.takeCmd cmd queue := by
  simp only [step, hok, hf, State.agentStep, ha, State.hostStep, hq, if_true]

theorem step_of_empty_hostQueue {s : State} (hok : s.params.ok = true) (hf : s.fault = none) (ha : s.agent = .host)
    (hq : s.hostQueue = []) : step s = .fault .awaitingHost := by
  simp only [step, hok, hf, State.agentStep, ha, State.hostStep, hq, if_true]

/-- After the start of a hash no place has a value (R413, R451). -/
theorem State.isWritten_startHash (s : State) (m : Memory) (queue : List HostCmd) (l : Location) :
    (s.startHash m queue).isWritten l = false := by
  cases l <;> rfl

/-- Settles O36: each interaction's own outcome, accepted or refused. -/
theorem batchStartResult : Obligations.BatchStartResult := by
  refine ⟨fun s k first last queue hok hf ha hq => ?_, fun s m queue hok hf ha => ⟨fun hq => ?_, fun hq => ?_,
    fun hq => ?_⟩⟩
  · rw [step_of_hostQueue hok hf ha hq]
    refine ⟨fun hd hp hk => ?_, fun h => ?_, fun hd hp hk => ?_⟩
    · simp only [State.takeCmd, hd, hp, hk, or_self, Bool.true_eq_false, if_false]
      rfl
    · simp only [State.takeCmd, h, if_true]
    · simp only [State.takeCmd, hd, hp, hk, or_self, Bool.true_eq_false, if_false, if_true]
  · rw [step_of_hostQueue hok hf ha hq]
    refine ⟨fun hm => ⟨s.startHash m queue, if_pos hm, rfl, rfl, s.isWritten_startHash m queue,
      List.length_replicate, fun l hl => ?_, rfl, rfl, rfl, rfl, rfl, rfl⟩, fun hm => if_neg (Bool.not_eq_true _ ▸ hm)⟩
    rw [List.eq_of_mem_replicate hl]
    exact ⟨rfl, rfl, rfl, rfl, rfl⟩
  · rw [step_of_hostQueue hok hf ha hq]
    exact ⟨fun hm => if_pos hm, fun hm => if_neg (Bool.not_eq_true _ ▸ hm)⟩
  · rw [step_of_hostQueue hok hf ha hq]
    exact ⟨fun hm => if_pos hm, fun hm => if_neg (Bool.not_eq_true _ ▸ hm)⟩

end Sys2Proof.Machine
end

section
/-! SUPPORT. O37, the phases and the end of a run. One case distinction says what a step of a running batch does; where
every round's dispatching ends, a batch ends by induction on the rounds that are left; a run with fuel is an induction
on the fuel; and of all effects of a step only a write-back hands a result over. -/

namespace Sys2Proof.Machine

/-! ### The steps of a running batch (R269) -/

theorem State.fault_ne_none_of_raise {s t : State} {rec : FaultRecord} (h : t = s.raise rec) : t.fault ≠ none :=
  h ▸ Option.isSome_iff_ne_none.mp (s.raise_fault_isSome rec)

/-- Dispatching that records no fault stays in DISPATCH or goes to WRITEBACK (R259, R261). -/
theorem State.dispatchStep_frame {s t : State} (hp : s.phase = .dispatch) (h : s.dispatchStep = .next t)
    (hf : t.fault = none) : DispatchFrame s t ∧ (t.phase = .dispatch ∨ t.phase = .writeback) := by
  rcases State.dispatchStep_cases h with ⟨-, hg⟩ | ⟨-, rfl⟩ | ⟨-, ht⟩
  · rcases State.groupStep_cases hg with ⟨rec, -, ht⟩ | ⟨slots, rec, -, -, ht⟩ |
      ⟨slots, results, q, p, x, -, -, -, ht⟩ | ⟨slots, results, -, -, -, rfl⟩
    · exact absurd hf (State.fault_ne_none_of_raise ht)
    · exact absurd hf (State.fault_ne_none_of_raise ht)
    · exact absurd hf (State.fault_ne_none_of_raise ht)
    · have heffects := InstructionFrame.foldl State.applyResult_frame results s
      have hphase : (results.foldl State.applyResult s).phase = .dispatch := by rw [heffects]; exact hp
      exact ⟨s.groupEffect_frame results slots.length, State.resync_phase hphase _⟩
  · exact ⟨rfl, .inr rfl⟩
  · exact absurd hf (State.fault_ne_none_of_raise ht)

/-- What a step of a running batch that records no fault does (R269). -/
theorem step_running_cases {s t : State} (hstep : step s = .next t) (ha : s.agent = .interpret)
    (hp : s.phase ≠ .done) (hf : t.fault = none) :
    (s.phase = .seed ∧ t = s.seedRegisters.startDispatch) ∨
    (s.phase = .dispatch ∧ DispatchFrame s t ∧ (t.phase = .dispatch ∨ t.phase = .writeback)) ∨
    (s.phase = .writeback ∧ t = s.writtenBack.endRound) := by
  obtain ⟨-, -, hs⟩ := step_cases hstep
  rcases hs with ⟨hhost, -⟩ | ⟨stage, hcompile, -⟩ | ⟨-, hphase, h⟩ | ⟨-, hphase, h⟩ | ⟨-, hphase, h⟩ | ⟨-, hdone, -⟩
  · simp [ha] at hhost
  · simp [ha] at hcompile
  · rcases State.seedStep_cases h with ⟨l, -, -, ht⟩ | ⟨-, ht⟩
    · exact absurd hf (State.fault_ne_none_of_raise ht)
    · exact .inl ⟨hphase, ht⟩
  · exact .inr (.inl ⟨hphase, State.dispatchStep_frame hphase h hf⟩)
  · rcases State.writebackStep_cases h with ⟨l, -, -, ht⟩ | ⟨a, -, ht⟩ | ⟨-, -, ht⟩
    · exact absurd hf (State.fault_ne_none_of_raise ht)
    · exact absurd hf (State.fault_ne_none_of_raise ht)
    · exact .inr (.inr ⟨hphase, ht⟩)
  · exact absurd hdone hp

/-- The transitions of a running batch (R269). -/
theorem step_running_phase {s t : State} (hstep : step s = .next t) (ha : s.agent = .interpret)
    (hp : s.phase ≠ .done) (hf : t.fault = none) :
    (s.phase = .seed ∧ t.phase = .dispatch ∧ t.agent = .interpret) ∨
    (s.phase = .dispatch ∧ (t.phase = .dispatch ∨ t.phase = .writeback) ∧ t.agent = .interpret) ∨
    (s.phase = .writeback ∧ t.phase = .seed ∧ t.agent = .interpret ∧ s.round + 1 < s.numIter) ∨
    (s.phase = .writeback ∧ t.phase = .done ∧ t.agent = .host ∧ s.numIter ≤ s.round + 1) := by
  rcases step_running_cases hstep ha hp hf with ⟨hphase, rfl⟩ | ⟨hphase, hframe, hnext⟩ | ⟨hphase, rfl⟩
  · exact .inl ⟨hphase, rfl, ha⟩
  · exact .inr (.inl ⟨hphase, hnext, by rw [hframe]; exact ha⟩)
  · rw [State.endRound_writtenBack]
    by_cases hend : s.numIter ≤ s.round + 1
    · exact .inr (.inr (.inr ⟨hphase, if_pos hend, if_pos hend, hend⟩))
    · exact .inr (.inr (.inl ⟨hphase, if_neg hend, if_neg hend, Nat.lt_of_not_le hend⟩))

/-! ### The length of a batch (R267, R458) -/

/-- A batch of `n` rounds that is running, all its rounds' dispatching ending (R428). -/
structure RunningBatch (n : Nat) (s : State) : Prop where
  params : s.params.ok = true
  fault : s.fault = none
  agent : s.agent = .interpret
  batch : BatchInv s
  rounds : s.numIter = n
  terminates : s.RoundsTerminate

/-- From this state on the batch reaches DONE after its `n` rounds, or a fault. -/
def State.BatchEnds (n : Nat) (s : State) : Prop :=
  ∃ (k : Nat) (t : State), s.stepN k = some t ∧ (t.fault ≠ none ∨ (t.phase = .done ∧ t.agent = .host ∧ t.round = n))

theorem State.BatchEnds.of_fault {n : Nat} {s : State} (h : s.fault ≠ none) : s.BatchEnds n :=
  ⟨0, s, rfl, .inl h⟩

theorem State.BatchEnds.of_stepN {n k : Nat} {s t : State} (h : t.BatchEnds n) (hrun : s.stepN k = some t) :
    s.BatchEnds n := by
  obtain ⟨j, u, hu, hend⟩ := h
  refine ⟨k + j, u, ?_, hend⟩
  rw [State.stepN_add, hrun]
  exact hu

theorem State.stepN_one_of_next {s t : State} (h : step s = .next t) : s.stepN 1 = some t :=
  State.stepN_succ_of_next 0 h

theorem State.RoundsTerminate.step {s t : State} (h : s.RoundsTerminate) (hstep : step s = .next t) :
    t.RoundsTerminate :=
  fun k u hu => h (k + 1) u ((State.stepN_succ_of_next k hstep).trans hu)

namespace RunningBatch

variable {n : Nat} {s t : State} (h : RunningBatch n s)
include h

/-- A step of the batch that records no fault, and is not its last, leaves it running. -/
theorem step (hstep : Machine.step s = .next t) (hf : t.fault = none) (ha : t.agent = .interpret) :
    RunningBatch n t := by
  have hconst : t.params = s.params ∧ t.numIter = s.numIter := by
    rcases step_running_cases hstep h.agent (h.batch.phase h.agent) hf with ⟨-, rfl⟩ | ⟨-, hframe, -⟩ | ⟨-, rfl⟩
    · exact ⟨rfl, rfl⟩
    · rw [hframe]
      exact ⟨rfl, rfl⟩
    · rw [State.endRound_writtenBack]
      exact ⟨rfl, rfl⟩
  obtain ⟨hparams, hrounds⟩ := hconst
  exact
    { params := hparams ▸ h.params
      fault := hf
      agent := ha
      batch := stepKeepsBatchInv s t h.batch hstep
      rounds := hrounds.trans h.rounds
      terminates := h.terminates.step hstep }

/-- Dispatch steps record a fault or stay in the round. -/
theorem groupsN {k : Nat} (hp : s.phase = .dispatch ∨ s.phase = .writeback) (hrun : s.groupsN k = some t) :
    t.fault ≠ none ∨
      (RunningBatch n t ∧ t.round = s.round ∧ (t.phase = .dispatch ∨ t.phase = .writeback)) := by
  induction k generalizing s with
  | zero =>
    cases hrun
    exact .inr ⟨h, rfl, hp⟩
  | succ k ih =>
    obtain ⟨ha, hphase, u, hstep, hrest⟩ := State.groupsN_succ_cases hrun
    by_cases hf : u.fault = none
    · rcases step_running_cases hstep ha (h.batch.phase ha) hf with ⟨hseed, -⟩ | ⟨-, hframe, hnext⟩ | ⟨hwb, -⟩
      · simp [hphase] at hseed
      · have hu : RunningBatch n u := h.step hstep hf (by rw [hframe]; exact ha)
        have hround : u.round = s.round := by rw [hframe]
        exact (ih hu hnext hrest).imp_right fun ⟨ht, hr, hpt⟩ => ⟨ht, hr.trans hround, hpt⟩
      · simp [hphase] at hwb
    · cases k with
      | zero =>
        cases hrest
        exact .inl hf
      | succ k =>
        obtain ⟨-, -, v, hv, -⟩ := State.groupsN_succ_cases hrest
        obtain ⟨-, hnone, -⟩ := step_cases hv
        exact absurd hnone hf

/-- A write-back is the end of the batch, or the start of a round closer to its end. -/
theorem ends_of_writeback (hp : s.phase = .writeback)
    (hnext : ∀ t, RunningBatch n t → t.phase = .seed → t.round = s.round + 1 → t.BatchEnds n) : s.BatchEnds n := by
  obtain ⟨t, ht⟩ : ∃ t, s.writebackStep = .next t := by
    unfold State.writebackStep
    split
    · exact ⟨_, rfl⟩
    · split <;> exact ⟨_, rfl⟩
  have hstep := (step_of_writeback h.params h.fault h.agent hp).trans ht
  refine State.BatchEnds.of_stepN ?_ (State.stepN_one_of_next hstep)
  by_cases hf : t.fault = none
  · have hround : t.round = s.round + 1 := by
      rcases step_running_cases hstep h.agent (h.batch.phase h.agent) hf with ⟨hseed, -⟩ | ⟨hdispatch, -⟩ | ⟨-, rfl⟩
      · simp [hp] at hseed
      · simp [hp] at hdispatch
      · rw [State.endRound_writtenBack]
    rcases step_running_phase hstep h.agent (h.batch.phase h.agent) hf with ⟨hseed, -⟩ | ⟨hdispatch, -⟩ |
      ⟨-, hseed, ha, -⟩ | ⟨-, hdone, ha, hlast⟩
    · simp [hp] at hseed
    · simp [hp] at hdispatch
    · exact hnext t (h.step hstep hf ha) hseed hround
    · have hbelow := h.batch.round h.agent
      have hrounds := h.rounds
      exact ⟨0, t, rfl, .inr ⟨hdone, ha, by omega⟩⟩
  · exact .of_fault hf

/-- A round's dispatching ends in its write-back, or in a fault. -/
theorem ends_of_dispatch (hp : s.phase = .dispatch)
    (hwriteback : ∀ t, RunningBatch n t → t.phase = .writeback → t.round = s.round → t.BatchEnds n) :
    s.BatchEnds n := by
  obtain ⟨k, t, hrun, hend⟩ := h.terminates 0 s rfl h.agent hp
  refine State.BatchEnds.of_stepN ?_ (State.stepN_of_groupsN hrun)
  rcases h.groupsN (.inl hp) hrun with hf | ⟨ht, hround, hdispatch | hwb⟩
  · exact .of_fault hf
  · have hpc : t.pc = t.progLen := hend.resolve_left (not_not_intro ht.fault)
    have hstep : Machine.step t = .next { t with phase := .writeback } := by
      simp only [Machine.step, ht.params, ht.fault, State.agentStep, ht.agent, State.interpretStep, hdispatch,
        State.dispatchStep, hpc, Nat.lt_irrefl, if_true, if_false]
    refine State.BatchEnds.of_stepN ?_ (State.stepN_one_of_next hstep)
    exact hwriteback _ (ht.step hstep ht.fault ht.agent) rfl hround
  · exact hwriteback t ht hwb hround

/-- Where every round's dispatching ends, the batch does, after exactly its rounds (R458). -/
theorem ends : s.BatchEnds n := by
  induction hleft : n - s.round generalizing s with
  | zero =>
    have hbelow := h.batch.round h.agent
    have hrounds := h.rounds
    omega
  | succ left ih =>
    have hwriteback (t : State) (ht : RunningBatch n t) (hp : t.phase = .writeback) (hround : t.round = s.round) :
        t.BatchEnds n :=
      ht.ends_of_writeback hp fun u hu _ hu' => ih hu (by omega)
    have hdispatch (t : State) (ht : RunningBatch n t) (hp : t.phase = .dispatch) (hround : t.round = s.round) :
        t.BatchEnds n :=
      ht.ends_of_dispatch hp fun u hu hpu hu' => hwriteback u hu hpu (hu'.trans hround)
    cases hp : s.phase with
    | seed =>
      have hstep := step_of_seed h.params h.fault h.agent hp (h.batch.decoded h.agent)
      refine State.BatchEnds.of_stepN ?_ (State.stepN_one_of_next hstep)
      exact hdispatch _ (h.step hstep h.fault h.agent) rfl rfl
    | dispatch => exact hdispatch s h hp rfl
    | writeback => exact hwriteback s h hp rfl
    | done => exact absurd hp (h.batch.phase h.agent)

end RunningBatch

/-! ### Runs with fuel (R458, R460) -/

/-- Among the first `k` states of the run from `s` none is over. -/
def State.NotOverBefore (s : State) (k : Nat) : Prop :=
  ∀ (j : Nat) (u : State), j < k → s.stepN j = some u → u.runOver = false

theorem State.NotOverBefore.zero (s : State) : s.NotOverBefore 0 := fun j _ hj => absurd hj (Nat.not_lt_zero j)

theorem State.NotOverBefore.runOver_eq_false {s : State} {k : Nat} (h : s.NotOverBefore (k + 1)) :
    s.runOver = false :=
  h 0 s (Nat.succ_pos k) rfl

theorem State.notOverBefore_one {s : State} : s.NotOverBefore 1 ↔ s.runOver = false := by
  refine ⟨State.NotOverBefore.runOver_eq_false, fun h j u hj hu => ?_⟩
  obtain rfl : j = 0 := by omega
  cases hu
  exact h

theorem State.notOverBefore_succ_of_next {s t : State} {k : Nat} (hstep : step s = .next t) :
    s.NotOverBefore (k + 1) ↔ s.runOver = false ∧ t.NotOverBefore k := by
  refine ⟨fun h => ⟨h.runOver_eq_false, fun j u hj hu => ?_⟩, fun ⟨hs, ht⟩ j u hj hu => ?_⟩
  · exact h (j + 1) u (Nat.succ_lt_succ hj) ((State.stepN_succ_of_next j hstep).trans hu)
  · cases j with
    | zero =>
      cases hu
      exact hs
    | succ j => exact ht j u (Nat.lt_of_succ_lt_succ hj) ((State.stepN_succ_of_next j hstep).symm.trans hu)

theorem State.stepN_succ_of_not_next {s : State} (hstep : ∀ t, step s ≠ .next t) (k : Nat) : s.stepN (k + 1) = none :=
  Option.eq_none_iff_forall_ne_some.mpr fun u hu => by
    obtain ⟨t, ht, -⟩ := State.stepN_succ_cases hu
    exact hstep t ht

/-- A run that is not over and cannot step stops, whatever its fuel. -/
theorem State.runFor_succ_of_not_next {s : State} (fuel : Nat) (hover : s.runOver = false)
    (hstep : ∀ t, step s ≠ .next t) (t : State) :
    s.runFor (fuel + 1) ≠ .over t ∧ s.runFor (fuel + 1) ≠ .notFinished t := by
  cases h : step s with
  | next u => exact absurd h (hstep u)
  | fault why | refused why => simp [State.runFor, hover, h]

/-- Of a run that is over its first state that is over is the one it begins with. -/
theorem State.exists_first_over_iff {fuel : Nat} {s t : State} (hover : s.runOver = true) :
    (∃ k, k ≤ fuel ∧ s.stepN k = some t ∧ t.runOver = true ∧ s.NotOverBefore k) ↔ s = t := by
  refine ⟨fun ⟨k, _, hrun, _, hbefore⟩ => ?_, fun h => h ▸ ⟨0, Nat.zero_le _, rfl, hover, .zero s⟩⟩
  cases k with
  | zero => exact Option.some.inj hrun
  | succ k => simp [hbefore.runOver_eq_false] at hover

/-- A run with fuel is over exactly at the first state within the fuel at which it is (R458, R460). -/
theorem State.runFor_eq_over_iff {fuel : Nat} {s t : State} :
    s.runFor fuel = .over t ↔ ∃ k, k ≤ fuel ∧ s.stepN k = some t ∧ t.runOver = true ∧ s.NotOverBefore k := by
  induction fuel generalizing s with
  | zero =>
    cases hover : s.runOver with
    | true => rw [State.runFor_of_over 0 hover, RunEnd.over.injEq, State.exists_first_over_iff hover]
    | false =>
      refine ⟨fun h => by simp [State.runFor, hover] at h, fun ⟨k, hk, hrun, ht, _⟩ => ?_⟩
      obtain rfl := Nat.le_zero.mp hk
      cases hrun
      simp [hover] at ht
  | succ fuel ih =>
    cases hover : s.runOver with
    | true => rw [State.runFor_of_over _ hover, RunEnd.over.injEq, State.exists_first_over_iff hover]
    | false =>
      by_cases hnext : ∃ u, step s = .next u
      · obtain ⟨u, hu⟩ := hnext
        rw [State.runFor_succ_of_next fuel hover hu, ih]
        refine ⟨fun ⟨k, hk, hrun, ht, hbefore⟩ => ?_, fun ⟨k, hk, hrun, ht, hbefore⟩ => ?_⟩
        · exact ⟨k + 1, Nat.succ_le_succ hk, (State.stepN_succ_of_next k hu).trans hrun, ht,
            (State.notOverBefore_succ_of_next hu).mpr ⟨hover, hbefore⟩⟩
        · cases k with
          | zero =>
            cases hrun
            simp [hover] at ht
          | succ k =>
            exact ⟨k, Nat.le_of_succ_le_succ hk, (State.stepN_succ_of_next k hu).symm.trans hrun, ht,
              ((State.notOverBefore_succ_of_next hu).mp hbefore).2⟩
      · rw [not_exists] at hnext
        refine ⟨fun h => absurd h (State.runFor_succ_of_not_next fuel hover hnext t).1, fun ⟨k, _, hrun, ht, _⟩ => ?_⟩
        cases k with
        | zero =>
          cases hrun
          simp [hover] at ht
        | succ k => simp [State.stepN_succ_of_not_next hnext k] at hrun

/-- A run with fuel is not finished exactly when the fuel's last state is reached and none was over (R458). -/
theorem State.runFor_eq_notFinished_iff {fuel : Nat} {s t : State} :
    s.runFor fuel = .notFinished t ↔ s.stepN fuel = some t ∧ s.NotOverBefore (fuel + 1) := by
  induction fuel generalizing s with
  | zero => cases hover : s.runOver <;> simp [State.runFor, State.notOverBefore_one, hover]
  | succ fuel ih =>
    cases hover : s.runOver with
    | true =>
      rw [State.runFor_of_over _ hover]
      refine ⟨nofun, fun ⟨_, hbefore⟩ => ?_⟩
      simp [hbefore.runOver_eq_false] at hover
    | false =>
      by_cases hnext : ∃ u, step s = .next u
      · obtain ⟨u, hu⟩ := hnext
        rw [State.runFor_succ_of_next fuel hover hu, ih, State.stepN_succ_of_next fuel hu,
          State.notOverBefore_succ_of_next hu, and_iff_right hover]
      · rw [not_exists] at hnext
        refine ⟨fun h => absurd h (State.runFor_succ_of_not_next fuel hover hnext t).2, fun ⟨hrun, _⟩ => ?_⟩
        simp [State.stepN_succ_of_not_next hnext fuel] at hrun

/-! ### The end of a run (R270, R460) -/

theorem State.runOver_iff {s : State} :
    s.runOver = true ↔ s.phase = .done ∧ s.last = true ∧ s.fault = none ∧ s.output.isSome = true := by
  simp [State.runOver, and_assoc]

theorem State.runOver_eq_false_of_phase {s : State} (h : s.phase ≠ .done) : s.runOver = false := by
  simp [State.runOver, h]

theorem State.runOver_eq_false_of_output {s : State} (h : s.output = none) : s.runOver = false := by
  simp [State.runOver, h]

/-- A write-back after which the run is over is that of the last round of the last batch, with its result. -/
theorem State.endRound_runOver {s : State} (h : s.writtenBack.endRound.runOver = true) :
    s.last = true ∧ s.numIter ≤ s.round + 1 ∧
      s.writtenBack.endRound.output = some s.writtenBack.endRound.finalOutput := by
  obtain ⟨hdone, hlast, -, -⟩ := State.runOver_iff.mp h
  have hlast' : s.last = true := by rwa [State.endRound_writtenBack] at hlast
  have hend : s.numIter ≤ s.round + 1 := by
    by_contra hlt
    rw [State.endRound_writtenBack, if_neg hlt] at hdone
    cases hdone
  exact ⟨hlast', hend, by rw [State.writtenBack_endRound_output, if_pos ⟨hlast', hend⟩]⟩

/-- A run comes to be over only by a write-back (R460). -/
theorem step_comes_to_be_over {s t : State} (hstep : step s = .next t) (hs : s.runOver = false)
    (ht : t.runOver = true) : s.agent = .interpret ∧ s.phase = .writeback ∧ t = s.writtenBack.endRound := by
  cases step_effect hstep with
  | fault rec eq =>
    subst eq
    obtain ⟨-, -, hfault, -⟩ := State.runOver_iff.mp ht
    cases hfault
  | startHash _ _ _ eq | startCompile _ _ _ eq =>
    subst eq
    exact absurd ht (Bool.eq_false_iff.mp (State.runOver_eq_false_of_output rfl))
  | initScratchpad _ _ _ eq | decode eq | pass1 _ _ eq | pass2 _ _ _ _ _ eq | emit _ _ _ eq =>
    subst eq
    exact absurd ht (Bool.eq_false_iff.mp hs)
  | startBatch _ _ _ _ _ _ _ eq | seed _ _ eq | dispatchEnd _ _ _ eq =>
    subst eq
    exact absurd ht (Bool.eq_false_iff.mp (State.runOver_eq_false_of_phase nofun))
  | group slots results _ phase _ _ eq =>
    have heffects := InstructionFrame.foldl State.applyResult_frame results s
    have hphase : (results.foldl State.applyResult s).phase = .dispatch := by rw [heffects]; exact phase
    have hnext := State.resync_phase hphase slots.length
    rw [← eq] at hnext
    have hdone : t.phase ≠ .done := by rcases hnext with h | h <;> simp [h]
    exact absurd ht (Bool.eq_false_iff.mp (State.runOver_eq_false_of_phase hdone))
  | writeback agent phase eq => exact ⟨agent, phase, eq⟩

/-- In the host's hands a run stays over by a new scratchpad alone (R426; log 22). -/
theorem step_stays_over_iff {s t : State} (hstep : step s = .next t) (hs : s.runOver = true) (ha : s.agent = .host) :
    t.runOver = true ↔ ∃ m queue, s.hostQueue = .initScratchpad m :: queue := by
  obtain ⟨hok, hf, -⟩ := step_cases hstep
  cases hq : s.hostQueue with
  | nil =>
    rw [step_of_empty_hostQueue hok hf ha hq] at hstep
    cases hstep
  | cons cmd queue =>
    rw [step_of_hostQueue hok hf ha hq] at hstep
    rcases State.takeCmd_cases hstep with ⟨m, rfl, -, rfl⟩ | ⟨m, rfl, -, rfl⟩ | ⟨m, rfl, -, rfl⟩ |
      ⟨k, first, last, rfl, -, -, -, rfl⟩
    · simp [State.runOver_eq_false_of_output (s := s.startHash m queue) rfl]
    · exact ⟨fun _ => ⟨m, queue, rfl⟩, fun _ => hs⟩
    · simp [State.runOver_eq_false_of_output (s := State.startCompile { s with hostQueue := queue } m) rfl]
    · simp [State.runOver_eq_false_of_phase
        (s := State.startBatch { s with hostQueue := queue } k first last) nofun]

/-- Settles O37: the transitions phase by phase, the batch's end by induction on its rounds, runs by induction on the
fuel, and the end of a run by the effects of a step. -/
theorem phaseTransitions : Obligations.PhaseTransitions := by
  refine ⟨fun s t hstep ha hp hf => step_running_phase hstep ha hp hf,
    fun s hok hf ha hq => step_of_empty_hostQueue hok hf ha hq,
    fun s hok hf ha hbatch hterm => RunningBatch.ends ⟨hok, hf, ha, hbatch, rfl, hterm⟩,
    fun fuel s t => ⟨State.runFor_eq_over_iff, ?_⟩,
    fun s t hstep => ⟨fun hs ht => ?_, step_stays_over_iff hstep⟩⟩
  · simpa only [State.NotOverBefore, Nat.lt_succ_iff] using State.runFor_eq_notFinished_iff
  · obtain ⟨ha, hp, rfl⟩ := step_comes_to_be_over hstep hs ht
    exact ⟨ha, hp, State.endRound_runOver ht⟩

end Sys2Proof.Machine
end

section
/-! SUPPORT. What the statements on single instructions have in common: a legal word whose places have values writes its
register and nothing else, a missing immediate entry is the first place named, an illegal word is BAD_WORD, and a word's
opcode stands in its bits. -/

namespace Sys2Proof.Machine

/-! ### The bits of a word (R125, R126) -/

theorem bitField_encodeWord_opcode (i : Instr) : bitField (encodeWord i).toNat 18 5 = i.opcode := by
  obtain ⟨-, hop, -⟩ := decodeWord_eq_ok_iff.mp (decodeWord_encodeWord i)
  exact hop.symm

theorem bitField_encodeWord_shift (i : Instr) : bitField (encodeWord i).toNat 16 2 = i.fields.shift.val := by
  obtain ⟨-, -, hfields⟩ := decodeWord_eq_ok_iff.mp (decodeWord_encodeWord i)
  obtain ⟨-, -, -, -, hshift, -, -⟩ := eq_decodeFields_iff.mp hfields
  exact hshift.symm

/-- A word carries its opcode number, whatever its other fields. -/
theorem EncodedAs.of_class {i : Instr} {c : RawClass} (h : RawClass.all[i.opcode]? = some c) :
    EncodedAs i i.opcode c :=
  ⟨bitField_encodeWord_opcode i, h⟩

/-! ### Legal words (R127, R128, R302) -/

/-- Only floating words name one of four registers, so every other word's register fields are legal. -/
theorem Instr.regsLegal_of_not_isFloat {i : Instr} (h : i.isFloat = false) : i.regsLegal = true := by
  by_contra hregs
  rw [Bool.not_eq_true, Instr.regsLegal_eq_false_iff, Instr.dstIsQuad_iff, Instr.srcIsQuad_iff] at hregs
  have hop : ¬(17 ≤ i.opcode ∧ i.opcode ≤ 25) := by simpa [Instr.isFloat] using h
  simp only [List.mem_cons, List.not_mem_nil, or_false] at hregs
  omega

/-- Without a memory operand `loc` is 0. -/
theorem Instr.legal_of_file {i : Instr} (hkind : i.locKind = .none) (hfloat : i.isFloat = false)
    (hloc : i.fields.loc = .file) : i.legal = true := by
  simp [Instr.legal, Instr.locLegal, hkind, hloc, Instr.regsLegal_of_not_isFloat hfloat]

theorem Instr.isFloat_of_intLoad {i : Instr} (hkind : i.locKind = .intLoad) : i.isFloat = false := by
  have hop := (Instr.locKind_eq_intLoad_iff i).mp hkind
  simp only [List.mem_cons, List.not_mem_nil, or_false] at hop
  simp only [Instr.isFloat, Bool.and_eq_false_iff, decide_eq_false_iff_not]
  omega

/-- An integer load's `loc` names a window, the widest exactly for `src = dst`. -/
theorem Instr.legal_intLoad_iff {i : Instr} (hkind : i.locKind = .intLoad) :
    i.legal = true ↔ i.fields.loc ≠ .file ∧ (i.fields.loc = .l3 ↔ i.fields.src = i.fields.dst) := by
  simp only [Instr.legal, Instr.locLegal, hkind, Instr.regsLegal_of_not_isFloat (Instr.isFloat_of_intLoad hkind),
    Bool.and_true, Bool.and_eq_true, bne_iff_ne, Bool.beq_eq_decide_eq, decide_eq_true_eq, decide_eq_decide]

/-! ### Places (R413) -/

theorem State.firstUnwritten_imm_cons {s : State} {k : Nat} (hk : s.imm.length ≤ k) (places : List Location) :
    s.firstUnwritten (.imm k :: places) = some (.imm k) := by
  simp [State.firstUnwritten, State.isWritten, hk]

theorem State.isWritten_r {s : State} (hd : s.decoded = true) (j : Fin 8) : s.isWritten (.r j) = true := hd

theorem State.isWritten_imm {s : State} {k : Nat} (hk : k < s.imm.length) : s.isWritten (.imm k) = true :=
  decide_eq_true hk

/-! ### What executing a word gives (R132, R413, R414) -/

theorem State.executing_of_illegal {s : State} {i : Instr} (places : List Location)
    (effect : Host.Outcome State Fault Refusal) (hl : i.legal = false) :
    s.executing i places effect = .next (s.raise (.badWord s.pc s.issue.word (encodeWord i))) := by
  simp [State.executing, hl, State.faultWord]

theorem State.executing_of_unwritten {s : State} {i : Instr} {places : List Location} {l : Location}
    (effect : Host.Outcome State Fault Refusal) (hl : i.legal = true) (hfirst : s.firstUnwritten places = some l) :
    s.executing i places effect = .next (s.raise (.unwrittenRead s.pc s.issue.word l)) := by
  simp [State.executing, hl, State.reading, hfirst, State.faultWord]

/-- A register write changes nothing but that register. -/
theorem OnlyReg.setReg (s : State) (d : Fin 8) (v : Word64) : OnlyReg d s (s.setReg d v) :=
  ⟨fun _ hj => s.reg_setReg_of_ne v hj, rfl, fun _ => rfl⟩

section Executes

variable {i : Instr} {s : State} {places : List Location}

/-- A legal word whose effect is one register write completes once all its places have values. -/
theorem CompletesReg.of_executing {d : Fin 8} {v : Word64}
    (hexec : exec i s = s.executing i places (.next (s.setReg d v))) (hl : i.legal = true)
    (hw : ∀ l ∈ places, s.isWritten l = true) : CompletesReg i d v s :=
  ⟨s.setReg d v, hexec.trans (State.executing_of_written _ hl hw), s.reg_setReg_same d v, OnlyReg.setReg s d v⟩

/-- A legal word whose first place without a value is an immediate entry raises UNWRITTEN_READ for it. -/
theorem RaisesUnwrittenImm.of_executing {effect : Host.Outcome State Fault Refusal} {k : Nat}
    (hexec : exec i s = s.executing i places effect) (hl : i.legal = true)
    (hfirst : s.firstUnwritten places = some (.imm k)) : RaisesUnwrittenImm i s k :=
  hexec.trans (State.executing_of_unwritten effect hl hfirst)

theorem RaisesBadWord.of_executing {effect : Host.Outcome State Fault Refusal}
    (hexec : exec i s = s.executing i places effect) (hl : i.legal = false) : RaisesBadWord i s :=
  hexec.trans (State.executing_of_illegal places effect hl)

end Executes

end Sys2Proof.Machine
end

section
/-! SUPPORT. Integer arithmetic: O5 to O8 and O11. The words without a memory operand differ in their second operand
and in the arithmetic, which is said here once for each; what is left is that their places have values. -/

namespace Sys2Proof.Machine

/-! ### Arithmetic on words (R11, R309, R311, R317, R318) -/

theorem mulHigh_eq (x y : Word64) :
    mulHigh x y = ((x.zeroExtend 128 * y.zeroExtend 128) >>> 64).setWidth 64 := by
  have hlt : x.toNat * y.toNat < 2 ^ 128 := BitVec.toNat_mul_toNat_lt
  refine BitVec.eq_of_toNat_eq ?_
  rw [mulHigh, BitVec.toNat_ofNat, BitVec.toNat_setWidth, BitVec.toNat_ushiftRight, BitVec.toNat_mul,
    BitVec.toNat_setWidth_of_le (by decide), BitVec.toNat_setWidth_of_le (by decide), Nat.mod_eq_of_lt hlt,
    Nat.shiftRight_eq_div_pow]

/-- The product of two sign-extended words does not overflow 128 bits. -/
theorem toInt_mul_signExtend (x y : Word64) : (x.signExtend 128 * y.signExtend 128).toInt = x.toInt * y.toInt := by
  have hle : x.toInt * y.toInt ≤ 2 ^ 126 := BitVec.toInt_mul_toInt_le
  have hge : -(2 ^ 126) ≤ x.toInt * y.toInt := BitVec.le_toInt_mul_toInt
  rw [BitVec.toInt_mul, BitVec.toInt_signExtend_of_le (by decide), BitVec.toInt_signExtend_of_le (by decide),
    Int.bmod_eq_of_le (by omega) (by omega)]

theorem mulHighSigned_eq (x y : Word64) :
    mulHighSigned x y = ((x.signExtend 128 * y.signExtend 128).sshiftRight 64).setWidth 64 := by
  rw [← BitVec.signExtend_eq_setWidth_of_le _ (by decide), BitVec.signExtend, BitVec.toInt_sshiftRight,
    toInt_mul_signExtend, Int.shiftRight_eq_div_pow]
  rfl

theorem rotr64_eq_shifts (x : Word64) {c : Nat} (hc : c < 64) : rotr64 x c = x >>> c ||| x <<< (64 - c) :=
  BitVec.rotateRight_eq_rotateRightAux_of_lt hc

theorem rotl64_eq_shifts (x : Word64) {c : Nat} (hc : c < 64) : rotl64 x c = x <<< c ||| x >>> (64 - c) :=
  BitVec.rotateLeft_eq_rotateLeftAux_of_lt hc

/-- The two words of an IMUL_RCP constant side by side (R130). -/
theorem append_eq_shift_or (hi lo : Word32) : hi ++ lo = (hi.zeroExtend 64 <<< 32 ||| lo.zeroExtend 64 : Word64) :=
  (BitVec.setWidth_eq (hi ++ lo)).symm.trans BitVec.setWidth_append_eq_shiftLeft_setWidth_or

/-! ### The places of a word (R129, R301) -/

theorem State.isWritten_of_mem_operand2Places {s : State} {w : Fields} (hd : s.decoded = true)
    (hk : w.src = w.dst → w.immIdx.val < s.imm.length) : ∀ l ∈ operand2Places w, s.isWritten l = true := by
  unfold operand2Places
  split
  · next hsame => simp [State.isWritten_r hd, State.isWritten_imm (hk hsame)]
  · simp [State.isWritten_r hd]

theorem State.firstUnwritten_operand2Places {s : State} {w : Fields} (hsame : w.src = w.dst)
    (hk : s.imm.length ≤ w.immIdx.val) : s.firstUnwritten (operand2Places w) = some (.imm w.immIdx.val) := by
  rw [operand2Places, if_pos hsame]
  exact State.firstUnwritten_imm_cons hk _

theorem State.isWritten_of_mem_regPlaces {s : State} (hd : s.decoded = true) (d k : Fin 8) :
    ∀ l ∈ [Location.r d, .r k], s.isWritten l = true := by
  simp [State.isWritten_r hd]

/-! ### The two-operand words -/

/-- Settles O5: register 5 alone reads an entry, and it is the first of its places. -/
theorem addShiftedRegister : Obligations.AddShiftedRegister := by
  intro w s hloc
  have hl : (Instr.iaddRs w).legal = true := Instr.legal_of_file rfl rfl hloc
  refine ⟨fun hd hk => .of_executing rfl hl ?_, fun hd h5 hk => .of_executing rfl hl ?_, .of_class rfl,
    bitField_encodeWord_shift (.iaddRs w)⟩
  · split
    · next h5 => simp [State.isWritten_r hd, State.isWritten_imm (hk h5)]
    · exact State.isWritten_of_mem_regPlaces hd w.dst w.src
  · rw [if_pos h5]
    exact State.firstUnwritten_imm_cons hk _

/-- Settles O6: the three words read the same places and differ in the arithmetic alone. -/
theorem twoOperandResults : Obligations.TwoOperandResults := by
  intro w s hloc x y
  have hsub : (Instr.isubR w).legal = true := Instr.legal_of_file rfl rfl hloc
  have hmul : (Instr.imulR w).legal = true := Instr.legal_of_file rfl rfl hloc
  have hxor : (Instr.ixorR w).legal = true := Instr.legal_of_file rfl rfl hloc
  refine ⟨fun hd hk => ?_, fun _ hsame hk => ?_, .of_class rfl, .of_class rfl, .of_class rfl⟩
  · have hw := State.isWritten_of_mem_operand2Places hd hk
    exact ⟨.of_executing rfl hsub hw, .of_executing rfl hmul hw, .of_executing rfl hxor hw⟩
  · have hfirst := State.firstUnwritten_operand2Places hsame hk
    exact ⟨.of_executing rfl hsub hfirst, .of_executing rfl hmul hfirst, .of_executing rfl hxor hfirst⟩

theorem State.rotateAmount_lt (s : State) (w : Fields) : s.rotateAmount w < 64 := by
  unfold State.rotateAmount
  split <;> exact Nat.mod_lt _ (by decide)

/-- Settles O7: the amount is below 64, where rotating is shifting both ways. -/
theorem rotateResults : Obligations.RotateResults := by
  intro w s hloc x c
  have hror : (Instr.irorR w).legal = true := Instr.legal_of_file rfl rfl hloc
  have hrol : (Instr.irolR w).legal = true := Instr.legal_of_file rfl rfl hloc
  have hc : c < 64 := s.rotateAmount_lt w
  refine ⟨fun hd hk => ?_, fun _ hsame hk => ?_, .of_class rfl, .of_class rfl⟩
  · have hw := State.isWritten_of_mem_operand2Places hd hk
    rw [← rotr64_eq_shifts x hc, ← rotl64_eq_shifts x hc]
    exact ⟨.of_executing rfl hror hw, .of_executing rfl hrol hw⟩
  · have hfirst := State.firstUnwritten_operand2Places hsame hk
    exact ⟨.of_executing rfl hror hfirst, .of_executing rfl hrol hfirst⟩

/-- Settles O8: the high halves as 128-bit products. -/
theorem multiplyHighRegister : Obligations.MultiplyHighRegister := by
  intro w s hloc hd
  have hw := State.isWritten_of_mem_regPlaces hd w.dst w.src
  rw [← mulHigh_eq, ← mulHighSigned_eq]
  exact ⟨.of_executing rfl (Instr.legal_of_file rfl rfl hloc) hw,
    .of_executing rfl (Instr.legal_of_file rfl rfl hloc) hw, .of_class rfl, .of_class rfl⟩

/-! ### Negation, exchange and NOP (R314, R319, R320) -/

@[simp] theorem State.setReg_reg_self (s : State) (j : Fin 8) : s.setReg j (s.reg j) = s := by
  rw [State.setReg, State.reg, Bank8.set_get_self]

/-- The exchange of ISWAP_R. -/
def State.swapRegs (s : State) (d k : Fin 8) : State := (s.setReg d (s.reg k)).setReg k (s.reg d)

theorem State.reg_swapRegs_right (s : State) (d k : Fin 8) : (s.swapRegs d k).reg k = s.reg d :=
  State.reg_setReg_same _ _ _

theorem State.reg_swapRegs_left (s : State) (d k : Fin 8) : (s.swapRegs d k).reg d = s.reg k := by
  by_cases h : d = k
  · rw [h, State.reg_swapRegs_right]
  · rw [State.swapRegs, State.reg_setReg_of_ne _ _ h, State.reg_setReg_same]

theorem State.reg_swapRegs_of_ne (s : State) {d k j : Fin 8} (hd : j ≠ d) (hk : j ≠ k) :
    (s.swapRegs d k).reg j = s.reg j := by
  rw [State.swapRegs, State.reg_setReg_of_ne _ _ hk, State.reg_setReg_of_ne _ _ hd]

@[simp] theorem State.swapRegs_self (s : State) (j : Fin 8) : s.swapRegs j j = s := by simp [State.swapRegs]

theorem exec_iswapR {w : Fields} {s : State} (hloc : w.loc = .file) (hd : s.decoded = true) :
    exec (.iswapR w) s = .next (s.swapRegs w.dst w.src) :=
  State.executing_of_written _ (Instr.legal_of_file rfl rfl hloc) (State.isWritten_of_mem_regPlaces hd w.dst w.src)

theorem exec_nop {w : Fields} (hloc : w.loc = .file) (s : State) : exec (.nop w) s = .next s :=
  State.executing_of_written _ (Instr.legal_of_file rfl rfl hloc) nofun

theorem lower_iswapR_opcode {raw : RawInstr} (creg : Fin 8) (hcls : raw.cls = .iswapR) :
    (lower raw creg).opcode = if raw.src = raw.dst then 29 else 16 := by
  by_cases h : raw.src = raw.dst <;> simp [lower, hcls, h, Instr.opcode]

/-- Settles O11: the exchange register by register, which for `s = d` writes back what was read. -/
theorem negateSwapAndNop : Obligations.NegateSwapAndNop := by
  refine ⟨fun w s hloc => ⟨fun hd => ⟨?_, s.swapRegs w.dst w.src, exec_iswapR hloc hd, ?_⟩, exec_nop hloc s,
    .of_class rfl, .of_class rfl, bitField_encodeWord_opcode (.nop w), rfl, fun _ => rfl⟩,
    fun _ => lower_iswapR_opcode⟩
  · refine .of_executing rfl (Instr.legal_of_file rfl rfl hloc) ?_
    simp [State.isWritten_r hd]
  · refine ⟨s.reg_swapRegs_left _ _, s.reg_swapRegs_right _ _, fun _ => s.reg_swapRegs_of_ne, rfl, fun _ => rfl, ?_⟩
    intro hsame
    rw [hsame, State.swapRegs_self]

end Sys2Proof.Machine
end

section
/-! SUPPORT. The integer loads, O9, and IMUL_RCP, O10. A load's address is aligned and inside the scratchpad by its
window's mask; a divisor that is no power of two lies between two of them, so its constant is at least `2 ^ 63`. -/

namespace Sys2Proof.Machine

/-! ### The address of a load (R86-R88, R302) -/

theorem windowMask_eq {loc : Loc} (h : loc ≠ .file) :
    windowMask loc = if loc = .l1 then 0x3FF8 else if loc = .l2 then 0x3FFF8 else 0x1FFFF8 := by
  cases loc with
  | file => exact absurd rfl h
  | l1 => rfl
  | l2 => rfl
  | l3 => rfl

theorem State.loadAddr_eq (s : State) (w : Fields) :
    s.loadAddr w =
      if w.loc = .l3 then ((s.immEntry w.immIdx.val).zeroExtend 64 &&& windowMask w.loc).toNat
      else ((s.reg w.src + (s.immEntry w.immIdx.val).signExtend 64) &&& windowMask w.loc).toNat := by
  cases h : w.loc <;> simp [State.loadAddr, h, effAddr, effAddrImm, sext32]

theorem effAddr_aligned (base : Word64) (imm : Word32) (window : Loc) : effAddr base imm window % 8 = 0 := by
  obtain ⟨hl1, hl2, hl3⟩ := toNat_and_windowMask (base + sext32 imm)
  rw [effAddr]
  cases window with
  | file => simp [windowMask]
  | l1 => omega
  | l2 => omega
  | l3 => omega

/-- Every load is of an aligned word inside the scratchpad. -/
theorem State.loadAddr_aligned_inside (s : State) (w : Fields) :
    s.loadAddr w % 8 = 0 ∧ s.loadAddr w + 8 ≤ Config.l3Size := by
  unfold State.loadAddr
  split
  · have himm := effAddrImm_eq (s.immEntry w.immIdx.val)
    simp only [Config.l3Size]
    omega
  all_goals exact ⟨effAddr_aligned _ _ _, effAddr_inside _ _ _⟩

/-! ### The six loads (R304, R306, R308, R310, R312, R316) -/

theorem State.isWritten_of_mem_loadPlaces {s : State} {w : Fields} (hd : s.decoded = true)
    (hk : w.immIdx.val < s.imm.length) : ∀ l ∈ loadPlaces w, s.isWritten l = true := by
  unfold loadPlaces
  split <;> simp [State.isWritten_r hd, State.isWritten_imm hk]

theorem State.firstUnwritten_loadPlaces {s : State} {w : Fields} (hk : s.imm.length ≤ w.immIdx.val) :
    s.firstUnwritten (loadPlaces w) = some (.imm w.immIdx.val) := by
  unfold loadPlaces
  split <;> exact State.firstUnwritten_imm_cons hk _

section IntegerLoads

variable {w : Fields} {i : Instr} (h : i ∈ integerLoads w)
include h

theorem intLoad_of_mem_integerLoads : i.locKind = .intLoad ∧ i.fields = w := by
  simp only [integerLoads, List.mem_cons, List.not_mem_nil, or_false] at h
  rcases h with rfl | rfl | rfl | rfl | rfl | rfl <;> exact ⟨rfl, rfl⟩

/-- The six loads read the same places. -/
theorem exec_of_mem_integerLoads (s : State) : ∃ effect, exec i s = s.executing i (loadPlaces w) effect := by
  simp only [integerLoads, List.mem_cons, List.not_mem_nil, or_false] at h
  rcases h with rfl | rfl | rfl | rfl | rfl | rfl <;> exact ⟨_, rfl⟩

theorem legal_iff_of_mem_integerLoads : i.legal = true ↔ w.loc ≠ .file ∧ (w.loc = .l3 ↔ w.src = w.dst) := by
  obtain ⟨hkind, rfl⟩ := intLoad_of_mem_integerLoads h
  exact Instr.legal_intLoad_iff hkind

end IntegerLoads

/-- Settles O9: the address by the window, the six words by the places they share. -/
theorem integerLoadResults : Obligations.IntegerLoadResults := by
  intro w s imm mask a x m
  refine ⟨fun hfile hl3 => ?_, fun hbad i hi => ?_, .of_class rfl, .of_class rfl, .of_class rfl, .of_class rfl,
    .of_class rfl, .of_class rfl⟩
  · have hlegal : ∀ i ∈ integerLoads w, i.legal = true := fun _ hi =>
      (legal_iff_of_mem_integerLoads hi).mpr ⟨hfile, hl3⟩
    have ha : s.loadAddr w = a := by rw [s.loadAddr_eq, windowMask_eq hfile]
    have hm : s.loadOperand w = m := congrArg s.spRead ha
    refine ⟨fun hd hk => ?_, fun _ hk i hi => ?_, ha ▸ s.loadAddr_aligned_inside w⟩
    · have hw := State.isWritten_of_mem_loadPlaces hd hk
      simp only [integerLoads, List.forall_mem_cons] at hlegal
      obtain ⟨hadd, hsub, hmul, hmulh, hsmulh, hxor, -⟩ := hlegal
      rw [← hm, ← mulHigh_eq, ← mulHighSigned_eq]
      exact ⟨.of_executing rfl hadd hw, .of_executing rfl hsub hw, .of_executing rfl hmul hw,
        .of_executing rfl hmulh hw, .of_executing rfl hsmulh hw, .of_executing rfl hxor hw⟩
    · obtain ⟨effect, hexec⟩ := exec_of_mem_integerLoads hi s
      exact .of_executing hexec (hlegal i hi) (State.firstUnwritten_loadPlaces hk)
  · obtain ⟨effect, hexec⟩ := exec_of_mem_integerLoads hi s
    refine .of_executing hexec ?_
    rwa [← Bool.not_eq_true, legal_iff_of_mem_integerLoads hi]

/-! ### IMUL_RCP (R217, R218, R313) -/

/-- A number that is neither 0 nor a power of two lies strictly between two of them. -/
theorem exists_between_two_pow {n : Nat} (hzero : n ≠ 0) (hpow : ∀ k : Nat, n ≠ 2 ^ k) :
    ∃ k : Nat, 2 ^ (k - 1) < n ∧ n < 2 ^ k :=
  ⟨n.log2 + 1, lt_of_le_of_ne (Nat.log2_self_le hzero) (hpow _).symm, Nat.lt_log2_self⟩

theorem reciprocal_getLsbD_top {d : Word32} (hzero : d ≠ 0) (hpow : ∀ k : Nat, d.toNat ≠ 2 ^ k) :
    (reciprocal d).getLsbD 63 = true := by
  obtain ⟨k, hlow, hhigh⟩ := exists_between_two_pow (fun h => hzero (BitVec.eq_of_toNat_eq h)) hpow
  obtain ⟨-, habove⟩ := reciprocal_toNat hlow hhigh
  have hmsb : (reciprocal d).msb = true := by
    rw [BitVec.msb_eq_decide]
    exact decide_eq_true habove.le
  rwa [BitVec.msb_eq_getLsbD_last] at hmsb

theorem lower_imulRcp_opcode {raw : RawInstr} (creg : Fin 8) (hcls : raw.cls = .imulRcp) :
    (lower raw creg).opcode = if degenerateDivisor raw.imm32 then 29 else 10 := by
  cases h : degenerateDivisor raw.imm32 <;> simp [lower, hcls, h, Instr.opcode]

theorem State.firstUnwritten_second_imm {s : State} {k : Nat} (hk : s.imm.length = k + 1) (places : List Location) :
    s.firstUnwritten (.imm k :: .imm (k + 1) :: places) = some (.imm (k + 1)) := by
  simp [State.firstUnwritten, State.isWritten, hk]

/-- Settles O10: the two entries in order, the divisors by R217, and the constant's range. -/
theorem multiplyByReciprocal : Obligations.MultiplyByReciprocal := by
  refine ⟨fun w s hloc => ?_, fun raw creg hcls => ?_, fun d => reciprocal_getLsbD_top⟩
  · have hl : (Instr.imulRcp w).legal = true := Instr.legal_of_file rfl rfl hloc
    refine ⟨fun hd hk => ?_, fun _ hk => .of_executing rfl hl (State.firstUnwritten_imm_cons hk _),
      fun _ hk => .of_executing rfl hl (State.firstUnwritten_second_imm hk _), .of_class rfl⟩
    rw [← append_eq_shift_or]
    refine .of_executing rfl hl ?_
    simp [State.isWritten_r hd, State.isWritten_imm hk, State.isWritten_imm (Nat.lt_of_succ_lt hk)]
  · rw [lower_imulRcp_opcode creg hcls, ← degenerateDivisor_iff]
    refine ⟨fun h => if_pos h, fun hzero hpow => if_neg ?_⟩
    rw [degenerateDivisor_iff]
    exact fun h => h.elim hzero fun ⟨k, hk⟩ => hpow k hk

end Sys2Proof.Machine
end

section
/-! SUPPORT. Binary64 patterns as a sign and magnitude bits (R12). The magnitude bits of the finite numbers count
upward from 0, and their values rise with them; past the largest finite number the count goes on, as if the exponent
had no bound, so that rounding can be said on magnitude bits alone and overflow afterwards. -/

namespace Sys2Proof.Machine

/-! ### Sign and magnitude bits -/

/-- The magnitude bits of a pattern. -/
def magBits (x : Word64) : Nat := x.toNat % 2 ^ 63

theorem signOf_eq_decide (x : Word64) : signOf x = decide (x.toNat / 2 ^ 63 % 2 = 1) := by
  rw [signOf, BitVec.getLsbD, Nat.testBit_eq_decide_div_mod_eq]

theorem fpPattern_toNat (neg : Bool) {magn : Nat} (h : magn < 2 ^ 63) :
    (fpPattern neg magn).toNat = (if neg then 2 ^ 63 else 0) + magn := by
  rw [fpPattern, BitVec.toNat_ofNat]
  split <;> omega

theorem magBits_fpPattern (neg : Bool) {magn : Nat} (h : magn < 2 ^ 63) : magBits (fpPattern neg magn) = magn := by
  rw [magBits, fpPattern_toNat neg h]
  split <;> omega

theorem signOf_fpPattern (neg : Bool) {magn : Nat} (h : magn < 2 ^ 63) : signOf (fpPattern neg magn) = neg := by
  rw [signOf_eq_decide, fpPattern_toNat neg h]
  cases neg <;> simp <;> omega

theorem fpPattern_even_iff (neg : Bool) {magn : Nat} (h : magn < 2 ^ 63) :
    (fpPattern neg magn).toNat % 2 = 0 ↔ magn % 2 = 0 := by
  rw [fpPattern_toNat neg h]
  split <;> omega

theorem fpPattern_signOf_magBits (x : Word64) : fpPattern (signOf x) (magBits x) = x := by
  refine BitVec.eq_of_toNat_eq ?_
  have hlt : x.toNat < 2 ^ 64 := x.isLt
  rw [magBits, fpPattern_toNat _ (Nat.mod_lt _ (by decide)), signOf_eq_decide]
  simp only [decide_eq_true_eq]
  split <;> omega

theorem fpPattern_zero (neg : Bool) : fpPattern neg 0 = zeroPattern neg := by
  cases neg <;> rfl

theorem fpPattern_fpInfBits (neg : Bool) : fpPattern neg fpInfBits = infPattern neg := by
  cases neg <;> rfl

/-! ### Taking a pattern apart -/

/-- The significand magnitude bits stand for: the leading bit is implicit but for subnormals. -/
def magMant (magn : Nat) : Nat := if magn / 2 ^ 52 = 0 then magn % 2 ^ 52 else 2 ^ 52 + magn % 2 ^ 52

/-- The exponent of the last place of magnitude bits: that of the subnormals, or the field's. -/
def magExp (magn : Nat) : Int := if magn / 2 ^ 52 = 0 then -1074 else (magn / 2 ^ 52 : Nat) - 1075

/-- What a pattern is depends on its magnitude bits alone: below infinity's a finite number, above them a NaN. -/
theorem fpDecode_eq (x : Word64) :
    fpDecode x =
      if magBits x < fpInfBits then .fin (signOf x) (magMant (magBits x)) (magExp (magBits x))
      else if magBits x = fpInfBits then .inf (signOf x) else .nan := by
  have hex : magBits x / 2 ^ 52 = x.toNat / 2 ^ 52 % 2 ^ 11 := by rw [magBits]; omega
  have hfrac : magBits x % 2 ^ 52 = x.toNat % 2 ^ 52 := by rw [magBits]; omega
  have hlt : magBits x < 2 ^ 63 := Nat.mod_lt _ (by decide)
  simp only [fpDecode, ← signOf_eq_decide, ← hex, ← hfrac]
  by_cases hfinite : magBits x < fpInfBits
  · have hne : magBits x / 2 ^ 52 ≠ 2047 := by rw [fpInfBits] at hfinite; omega
    rw [if_pos hfinite, if_neg hne, magMant, magExp]
    split <;> rfl
  · have hge : fpInfBits ≤ magBits x := Nat.le_of_not_lt hfinite
    rw [fpInfBits] at hge
    have htop : magBits x / 2 ^ 52 = 2047 := by omega
    have hzero : magBits x % 2 ^ 52 = 0 ↔ magBits x = fpInfBits := by rw [fpInfBits]; omega
    rw [if_neg hfinite, if_pos htop]
    simp only [hzero]

theorem fpDecode_fpPattern (neg : Bool) {magn : Nat} (h : magn < fpInfBits) :
    fpDecode (fpPattern neg magn) = .fin neg (magMant magn) (magExp magn) := by
  have hlt : magn < 2 ^ 63 := h.trans (by decide)
  rw [fpDecode_eq, magBits_fpPattern neg hlt, signOf_fpPattern neg hlt, if_pos h]

theorem fpDecode_infPattern (neg : Bool) : fpDecode (infPattern neg) = .inf neg := by
  cases neg <;> decide

/-- A finite number is below infinity, with its own sign, significand and exponent. -/
theorem fpDecode_eq_fin_iff {x : Word64} {s : Bool} {m : Nat} {g : Int} :
    fpDecode x = .fin s m g ↔
      magBits x < fpInfBits ∧ s = signOf x ∧ m = magMant (magBits x) ∧ g = magExp (magBits x) := by
  rw [fpDecode_eq]
  split
  · next h => simp [h, eq_comm]
  · next h => split <;> simp [h]

theorem signOf_of_fpDecode_inf {x : Word64} {s : Bool} (h : fpDecode x = .inf s) : signOf x = s := by
  rw [fpDecode_eq] at h
  split at h
  · cases h
  · split at h <;> cases h
    rfl

theorem signOf_of_fpDecode_fin {x : Word64} {s : Bool} {m : Nat} {g : Int} (h : fpDecode x = .fin s m g) :
    signOf x = s :=
  (fpDecode_eq_fin_iff.mp h).2.1.symm

theorem isNaN_nanResult (op : Config.FpOp) (mode : Config.RoundMode) (x y : Word64) :
    IsNaN (nanResult op mode x y) := by
  have hones (p : Word64) : (p ||| 0x7FF0000000000000).toNat / 2 ^ 52 % 2 ^ 11 = 2047 := by
    rw [BitVec.toNat_or, Nat.or_div_two_pow, Nat.or_mod_two_pow]
    exact Nat.le_antisymm (Nat.le_of_lt_succ (Nat.or_lt_two_pow (Nat.mod_lt _ (by decide)) (by decide)))
      Nat.right_le_or
  have hnan {p : Word64} (hex : p.toNat / 2 ^ 52 % 2 ^ 11 = 2047) (hfrac : p.toNat % 2 ^ 52 ≠ 0) : IsNaN p := by
    rw [IsNaN, fpDecode]
    simp only [hex, if_neg hfrac, if_true]
  simp only [nanResult]
  split
  · refine hnan ?_ ?_
    · rw [BitVec.or_assoc, BitVec.or_comm 0x7FF0000000000000, ← BitVec.or_assoc]
      exact hones _
    · rw [BitVec.toNat_or, Nat.or_mod_two_pow]
      exact Nat.ne_of_gt (Nat.lt_of_lt_of_le (by decide) Nat.right_le_or)
  · next hfrac => exact hnan (hones _) hfrac

/-! ### The value of magnitude bits -/

section Values

variable {K : Type*} [Field K]

/-- The value of magnitude bits. -/
def magValue (K : Type*) [Field K] (magn : Nat) : K := (magMant magn : K) * 2 ^ magExp magn

/-- A value with a sign. -/
def withSign (neg : Bool) (t : K) : K := if neg then -t else t

theorem magValue_cast (magn : Nat) [CharZero K] : ((magValue ℚ magn : ℚ) : K) = magValue K magn := by
  simp [magValue]

/-- The finite numbers: those of magnitude bits below infinity's, under either sign. -/
theorem fpRat_eq_some_iff {x : Word64} {u : ℚ} :
    fpRat x = some u ↔ magBits x < fpInfBits ∧ u = withSign (signOf x) (magValue ℚ (magBits x)) := by
  by_cases h : magBits x < fpInfBits
  · cases hs : signOf x <;> simp [fpRat, fpDecode_eq, h, hs, withSign, magValue, eq_comm]
  · by_cases hinf : magBits x = fpInfBits <;> simp [fpRat, fpDecode_eq, hinf, h]

theorem fpRat_fpPattern (neg : Bool) {magn : Nat} (h : magn < fpInfBits) :
    fpRat (fpPattern neg magn) = some (withSign neg (magValue ℚ magn)) := by
  have hlt : magn < 2 ^ 63 := h.trans (by decide)
  rw [fpRat_eq_some_iff, magBits_fpPattern neg hlt, signOf_fpPattern neg hlt]
  exact ⟨h, rfl⟩

/-- The magnitude bits of a significand of at most 53 bits at an exponent from −1074 up. Only at −1074 may the
significand be short of its leading bit. -/
theorem magValue_add [CharZero K] {k quo : Nat} (hquo : quo ≤ 2 ^ 53) (hlead : k = 0 ∨ 2 ^ 52 ≤ quo) :
    magValue K (k * 2 ^ 52 + quo) = quo * 2 ^ ((k : Int) - 1074) := by
  rcases Nat.lt_or_ge quo (2 ^ 52) with hlt | hge
  · obtain rfl : k = 0 := by omega
    rw [magValue, magMant, magExp, if_pos (by omega), if_pos (by omega)]
    congr 2
    omega
  · rcases Nat.eq_or_lt_of_le hquo with rfl | hlt
    · have hdiv : (k * 2 ^ 52 + 2 ^ 53) / 2 ^ 52 = k + 2 := by omega
      have hmod : (k * 2 ^ 52 + 2 ^ 53) % 2 ^ 52 = 0 := by omega
      have hexp : ((k + 2 : Nat) : Int) - 1075 = (k - 1074) + 1 := by push_cast; ring
      rw [magValue, magMant, magExp, hdiv, hmod, if_neg (by omega), if_neg (by omega), hexp,
        zpow_add_one₀ (by norm_num)]
      push_cast
      ring
    · have hdiv : (k * 2 ^ 52 + quo) / 2 ^ 52 = k + 1 := by omega
      have hmod : 2 ^ 52 + (k * 2 ^ 52 + quo) % 2 ^ 52 = quo := by omega
      have hexp : ((k + 1 : Nat) : Int) - 1075 = k - 1074 := by push_cast; ring
      rw [magValue, magMant, magExp, hdiv, if_neg (by omega), if_neg (by omega), hmod, hexp]

/-- Magnitude bits as a significand and an exponent that `magValue_add` puts together again. -/
theorem exists_magBits_eq (magn : Nat) :
    ∃ k quo : Nat, magn = k * 2 ^ 52 + quo ∧ quo < 2 ^ 53 ∧ (k = 0 ∨ 2 ^ 52 ≤ quo) := by
  rcases Nat.lt_or_ge magn (2 ^ 53) with h | h
  · exact ⟨0, magn, by omega, h, .inl rfl⟩
  · exact ⟨magn / 2 ^ 52 - 1, magn % 2 ^ 52 + 2 ^ 52, by omega, by omega, .inr (by omega)⟩

@[simp] theorem magValue_zero : magValue K 0 = 0 := by simp [magValue, magMant]

variable [LinearOrder K] [IsStrictOrderedRing K]

/-- The values rise with the magnitude bits. -/
theorem magValue_strictMono : StrictMono (magValue K) := by
  refine strictMono_nat_of_lt_succ fun magn => ?_
  obtain ⟨k, quo, rfl, hquo, hlead⟩ := exists_magBits_eq magn
  have hpos : (0 : K) < 2 ^ ((k : Int) - 1074) := by positivity
  rw [Nat.add_assoc, magValue_add hquo.le hlead, magValue_add hquo (by omega)]
  push_cast
  linarith

theorem magValue_nonneg (magn : Nat) : 0 ≤ magValue K magn := by
  rw [magValue]
  positivity

end Values

end Sys2Proof.Machine
end

section
/-! SUPPORT. Rounding on magnitude bits (R44, R340): what it means to round a magnitude in a direction, and that
`roundPack` does it. An exact magnitude `t` is known to `roundPack` by a significand, an exponent and a sticky bit; it
lies between two consecutive magnitude bits, and `roundsAway` says which of the two to take. -/

namespace Sys2Proof.Machine

open Sys2Proof.Config (RoundMode)

section Rounding

variable {K : Type*} [Field K] [LinearOrder K] [IsStrictOrderedRing K] {t : K} {magn n : Nat}

/-! ### Rounding a magnitude -/

/-- The greatest magnitude bits whose value is not above `t`. -/
def MagBelow (t : K) (magn : Nat) : Prop := magValue K magn ≤ t ∧ t < magValue K (magn + 1)

/-- The least magnitude bits whose value is not below `t`. -/
def MagAbove (t : K) (magn : Nat) : Prop := t ≤ magValue K magn ∧ ∀ n < magn, magValue K n < t

/-- The magnitude bits nearest to `t`, the even ones in a tie. -/
def MagNearest (t : K) (magn : Nat) : Prop :=
  ∀ n, |magValue K magn - t| ≤ |magValue K n - t| ∧
    (|magValue K magn - t| = |magValue K n - t| → n ≠ magn → magn % 2 = 0)

/-- `magn` are the magnitude bits of `t`, a magnitude with sign `neg`, rounded in a direction as if the exponent had no
bound (R44, R340). -/
def MagRounded (mode : RoundMode) (neg : Bool) (t : K) (magn : Nat) : Prop :=
  match mode with
  | .nearestEven => MagNearest t magn
  | .down => if neg then MagAbove t magn else MagBelow t magn
  | .up => if neg then MagBelow t magn else MagAbove t magn
  | .zero => MagBelow t magn

theorem magBelow_self (magn : Nat) : MagBelow (magValue K magn) magn :=
  ⟨le_rfl, magValue_strictMono (Nat.lt_succ_self magn)⟩

theorem magAbove_self (magn : Nat) : MagAbove (magValue K magn) magn :=
  ⟨le_rfl, fun _ h => magValue_strictMono h⟩

theorem MagBelow.le_of_magValue_le (h : MagBelow t magn) (hn : magValue K n ≤ t) : n ≤ magn :=
  Nat.le_of_lt_succ (magValue_strictMono.lt_iff_lt.mp (hn.trans_lt h.2))

theorem MagBelow.above_succ (h : MagBelow t magn) (hne : magValue K magn < t) : MagAbove t (magn + 1) :=
  ⟨h.2.le, fun _ hn => (magValue_strictMono.monotone (Nat.le_of_lt_succ hn)).trans_lt hne⟩

/-- Below the middle, or in it over even bits, the lower neighbour is the nearest. -/
theorem MagBelow.nearest (h : MagBelow t magn)
    (hmid : 2 * t ≤ magValue K magn + magValue K (magn + 1))
    (htie : 2 * t = magValue K magn + magValue K (magn + 1) → magn % 2 = 0) : MagNearest t magn := by
  obtain ⟨hle, hlt⟩ := h
  intro n
  rw [abs_sub_comm, abs_of_nonneg (sub_nonneg.mpr hle)]
  rcases Nat.lt_trichotomy n magn with hn | rfl | hn
  · have hval : magValue K n < magValue K magn := magValue_strictMono hn
    rw [abs_sub_comm, abs_of_nonneg (by linarith)]
    exact ⟨by linarith, fun heq => by linarith⟩
  · exact ⟨by rw [abs_sub_comm, abs_of_nonneg (sub_nonneg.mpr hle)], fun _ hne => absurd rfl hne⟩
  · have hval : magValue K (magn + 1) ≤ magValue K n := magValue_strictMono.monotone hn
    rw [abs_of_nonneg (by linarith)]
    exact ⟨by linarith, fun heq _ => htie (by linarith)⟩

/-- Above the middle, or in it over odd bits, the upper neighbour is the nearest. -/
theorem MagBelow.nearest_succ (h : MagBelow t magn)
    (hmid : magValue K magn + magValue K (magn + 1) ≤ 2 * t)
    (htie : 2 * t = magValue K magn + magValue K (magn + 1) → magn % 2 = 1) : MagNearest t (magn + 1) := by
  obtain ⟨hle, hlt⟩ := h
  intro n
  rw [abs_of_nonneg (sub_nonneg.mpr hlt.le)]
  rcases Nat.lt_trichotomy n (magn + 1) with hn | rfl | hn
  · have hval : magValue K n ≤ magValue K magn := magValue_strictMono.monotone (Nat.le_of_lt_succ hn)
    rw [abs_sub_comm, abs_of_nonneg (by linarith)]
    exact ⟨by linarith, fun heq _ => by have := htie (by linarith); omega⟩
  · exact ⟨by rw [abs_of_nonneg (sub_nonneg.mpr hlt.le)], fun _ hne => absurd rfl hne⟩
  · have hval : magValue K (magn + 1) < magValue K n := magValue_strictMono hn
    rw [abs_of_nonneg (by linarith)]
    exact ⟨by linarith, fun heq => by linarith⟩

/-- A magnitude that is a value rounds to it in every direction. -/
theorem magRounded_self (mode : RoundMode) (neg : Bool) (magn : Nat) : MagRounded mode neg (magValue K magn) magn := by
  have hval : magValue K magn < magValue K (magn + 1) := magValue_strictMono (Nat.lt_succ_self magn)
  cases mode with
  | nearestEven => exact (magBelow_self magn).nearest (by linarith) (fun h => by linarith)
  | down => cases neg <;> simp [MagRounded, magBelow_self, magAbove_self]
  | up => cases neg <;> simp [MagRounded, magBelow_self, magAbove_self]
  | zero => exact magBelow_self magn

/-- Rounding does not pass a value. -/
theorem MagRounded.le_of_le_magValue {mode : RoundMode} {neg : Bool} (h : MagRounded mode neg t magn)
    (hn : t ≤ magValue K n) : magn ≤ n := by
  have below (h : MagBelow t magn) : magn ≤ n := magValue_strictMono.le_iff_le.mp (h.1.trans hn)
  have above (h : MagAbove t magn) : magn ≤ n := Nat.le_of_not_lt fun hlt => (h.2 n hlt).not_ge hn
  cases mode with
  | nearestEven =>
    refine Nat.le_of_not_lt fun hlt => ?_
    have hval : magValue K n < magValue K magn := magValue_strictMono hlt
    have hnear := (h n).1
    rw [abs_of_nonneg (by linarith), abs_of_nonneg (by linarith)] at hnear
    linarith
  | down => cases neg <;> simp only [MagRounded] at h <;> [exact below h; exact above h]
  | up => cases neg <;> simp only [MagRounded] at h <;> [exact above h; exact below h]
  | zero => exact below h

/-! ### What `roundPack` is told -/

/-- A significand, an exponent and a sticky bit describe the magnitude `t`: `t` is `mant × 2^exp`, or with `sticky` lies
strictly between that and the next multiple of `2^exp`. -/
structure Describes (mant : Nat) (exp : Int) (sticky : Bool) (t : K) : Prop where
  lower : (mant : K) * 2 ^ exp ≤ t
  upper : t < (mant + 1) * 2 ^ exp
  exact_iff : sticky = false ↔ t = mant * 2 ^ exp

theorem Describes.of_exact (mant : Nat) (exp : Int) : Describes mant exp false ((mant : K) * 2 ^ exp) where
  lower := le_rfl
  upper := by
    have hpos : (0 : K) < 2 ^ exp := by positivity
    linarith
  exact_iff := by simp

/-- The same magnitude with a smaller exponent. -/
theorem Describes.shift {mant : Nat} {exp : Int} (h : Describes mant exp false t) (k : Nat) :
    Describes (mant * 2 ^ k) (exp - k) false t := by
  obtain rfl : t = mant * 2 ^ exp := h.exact_iff.mp rfl
  have hsplit : (mant : K) * 2 ^ exp = ((mant * 2 ^ k : Nat) : K) * 2 ^ (exp - k) := by
    rw [zpow_sub₀ (by norm_num), zpow_natCast]
    push_cast
    field_simp
  rw [hsplit]
  exact .of_exact _ _

section Quotient

variable {mant unit : Nat} {exp : Int} {sticky : Bool}

theorem Describes.natCast_mul_le (h : Describes mant exp sticky t) {a : Nat} (ha : a ≤ mant) :
    (a : K) * 2 ^ exp ≤ t := by
  have hcast : (a : K) ≤ mant := by exact_mod_cast ha
  exact (mul_le_mul_of_nonneg_right hcast (by positivity)).trans h.lower

theorem Describes.lt_natCast_mul (h : Describes mant exp sticky t) {a : Nat} (ha : mant < a) :
    t < (a : K) * 2 ^ exp := by
  have hcast : (mant : K) + 1 ≤ a := by exact_mod_cast ha
  exact h.upper.trans_le (mul_le_mul_of_nonneg_right hcast (by positivity))

/-- A multiple of `2^exp` is compared with `t` as its factor is with `mant`, the sticky bit deciding in a tie. -/
theorem Describes.natCast_mul_lt_iff (h : Describes mant exp sticky t) {a : Nat} :
    (a : K) * 2 ^ exp < t ↔ a < mant ∨ a = mant ∧ sticky = true := by
  rcases Nat.lt_trichotomy a mant with ha | rfl | ha
  · have hcast : (a : K) < mant := by exact_mod_cast ha
    have hlt : (a : K) * 2 ^ exp < t := (mul_lt_mul_of_pos_right hcast (by positivity)).trans_le h.lower
    simp [ha, hlt]
  · rw [h.lower.lt_iff_ne, ne_comm, ne_eq, ← h.exact_iff]
    simp
  · simp [(h.lt_natCast_mul ha).not_gt, ha.not_gt, ha.ne']

theorem Describes.natCast_mul_eq_iff (h : Describes mant exp sticky t) {a : Nat} :
    (a : K) * 2 ^ exp = t ↔ a = mant ∧ sticky = false := by
  rcases Nat.lt_trichotomy a mant with ha | rfl | ha
  · simp [(h.natCast_mul_lt_iff.mpr (.inl ha)).ne, ha.ne]
  · rw [eq_comm, ← h.exact_iff]
    simp
  · simp [(h.lt_natCast_mul ha).ne', ha.ne']

/-- Between the multiple of `unit` below `mant` and the next one lies `t`. -/
theorem Describes.quotient_bracket (h : Describes mant exp sticky t) (hunit : 0 < unit) :
    ((mant / unit : Nat) : K) * (unit * 2 ^ exp) ≤ t ∧ t < ((mant / unit + 1 : Nat) : K) * (unit * 2 ^ exp) := by
  have hlt : mant < (mant / unit + 1) * unit := by
    rw [Nat.mul_comm]
    exact Nat.lt_mul_div_succ mant hunit
  rw [← mul_assoc, ← mul_assoc, ← Nat.cast_mul, ← Nat.cast_mul]
  exact ⟨h.natCast_mul_le (Nat.div_mul_le_self mant unit), h.lt_natCast_mul hlt⟩

/-- It is above the first exactly when something is left over. -/
theorem Describes.quotient_lt_iff (h : Describes mant exp sticky t) :
    ((mant / unit : Nat) : K) * (unit * 2 ^ exp) < t ↔ mant % unit ≠ 0 ∨ sticky = true := by
  have hdiv : mant / unit * unit + mant % unit = mant := Nat.div_add_mod' mant unit
  rw [← mul_assoc, ← Nat.cast_mul, h.natCast_mul_lt_iff]
  have hlt : mant / unit * unit < mant ↔ mant % unit ≠ 0 := by omega
  have heq : mant / unit * unit = mant ↔ mant % unit = 0 := by omega
  rw [hlt, heq]
  by_cases hrem : mant % unit = 0 <;> simp [hrem]

/-- The middle between them is compared with `t` as half of `unit` is with what is left over. -/
theorem Describes.middle_compare {half : Nat} (h : Describes mant exp sticky t) (hunit : unit = 2 * half) :
    (((mant / unit : Nat) : K) * (unit * 2 ^ exp) + ((mant / unit + 1 : Nat) : K) * (unit * 2 ^ exp) < 2 * t ↔
      unit < 2 * (mant % unit) ∨ unit = 2 * (mant % unit) ∧ sticky = true) ∧
    (((mant / unit : Nat) : K) * (unit * 2 ^ exp) + ((mant / unit + 1 : Nat) : K) * (unit * 2 ^ exp) = 2 * t ↔
      unit = 2 * (mant % unit) ∧ sticky = false) := by
  have hdiv : mant / unit * unit + mant % unit = mant := Nat.div_add_mod' mant unit
  have hmiddle : ((mant / unit : Nat) : K) * (unit * 2 ^ exp) + ((mant / unit + 1 : Nat) : K) * (unit * 2 ^ exp) =
      2 * (((mant / unit * unit + half : Nat) : K) * 2 ^ exp) := by
    have hcast : (unit : K) = 2 * half := by exact_mod_cast hunit
    push_cast
    rw [hcast]
    ring
  have hlt : mant / unit * unit + half < mant ↔ unit < 2 * (mant % unit) := by omega
  have heq : mant / unit * unit + half = mant ↔ unit = 2 * (mant % unit) := by omega
  rw [hmiddle, mul_lt_mul_iff_right₀ (by norm_num), mul_right_inj' (by norm_num), h.natCast_mul_lt_iff,
    h.natCast_mul_eq_iff, hlt, heq]
  exact ⟨Iff.rfl, Iff.rfl⟩

/-- Nothing left over is nothing to round. -/
theorem roundsAway_exact (mode : RoundMode) (neg : Bool) (quo : Nat) (hunit : 0 < unit) :
    roundsAway mode neg quo 0 unit false = false := by
  cases mode <;> simp [roundsAway, hunit.ne']

/-- `unit × 2^exp` is the distance between the neighbouring magnitude bits `magn` and `magn + 1`, and `t` lies in
between, as many units up as the quotient says. -/
structure Neighbours (K : Type*) [Field K] (magn mant unit : Nat) (exp : Int) : Prop where
  low : magValue K magn = ((mant / unit : Nat) : K) * (unit * 2 ^ exp)
  high : magValue K (magn + 1) = ((mant / unit + 1 : Nat) : K) * (unit * 2 ^ exp)
  parity : magn % 2 = mant / unit % 2

section Neighbours

variable (hn : Neighbours K magn mant unit exp)
include hn

theorem Neighbours.magBelow (h : Describes mant exp sticky t) (hpos : 0 < unit) : MagBelow t magn := by
  rw [MagBelow, hn.low, hn.high]
  exact h.quotient_bracket hpos

theorem Neighbours.magValue_lt_iff (h : Describes mant exp sticky t) :
    magValue K magn < t ↔ mant % unit ≠ 0 ∨ sticky = true := by
  rw [hn.low, h.quotient_lt_iff]

/-- To nearest, `roundsAway` compares `t` with the middle. -/
theorem Neighbours.roundsAway_nearest_iff (h : Describes mant exp sticky t) {half : Nat} (hunit : unit = 2 * half)
    (neg : Bool) :
    roundsAway .nearestEven neg (mant / unit) (mant % unit) unit sticky = true ↔
      magValue K magn + magValue K (magn + 1) < 2 * t ∨
        magValue K magn + magValue K (magn + 1) = 2 * t ∧ magn % 2 = 1 := by
  obtain ⟨hlt, heq⟩ := h.middle_compare hunit
  rw [hn.low, hn.high, hlt, heq, hn.parity]
  cases sticky <;> simp [roundsAway]

theorem Neighbours.magNearest (h : Describes mant exp sticky t) (hbelow : MagBelow t magn) {half : Nat}
    (hunit : unit = 2 * half) (neg : Bool) :
    MagNearest t
      (magn + if roundsAway .nearestEven neg (mant / unit) (mant % unit) unit sticky then 1 else 0) := by
  split
  · next hup =>
    rw [hn.roundsAway_nearest_iff h hunit] at hup
    exact hbelow.nearest_succ (hup.elim le_of_lt fun htie => htie.1.le)
      fun htie => hup.elim (fun hlt => absurd htie hlt.ne') And.right
  · next hstay =>
    rw [hn.roundsAway_nearest_iff h hunit, not_or, not_lt, not_and] at hstay
    exact hbelow.nearest hstay.1 fun htie => Nat.mod_two_ne_one.mp (hstay.2 htie.symm)

/-- `roundsAway` chooses between two neighbouring magnitude bits as the direction asks (R44). Where something is left
over, `unit` is even. -/
theorem Neighbours.magRounded (h : Describes mant exp sticky t) (hpos : 0 < unit)
    (hunit : mant % unit ≠ 0 ∨ sticky = true → ∃ half, unit = 2 * half) (mode : RoundMode) (neg : Bool) :
    MagRounded mode neg t
      (magn + if roundsAway mode neg (mant / unit) (mant % unit) unit sticky then 1 else 0) := by
  have hbelow := hn.magBelow h hpos
  have hinexact := hn.magValue_lt_iff h
  by_cases hover : mant % unit ≠ 0 ∨ sticky = true
  · have habove : MagAbove t (magn + 1) := hbelow.above_succ (hinexact.mpr hover)
    cases mode with
    | nearestEven =>
      obtain ⟨half, hhalf⟩ := hunit hover
      exact hn.magNearest h hbelow hhalf neg
    | down =>
      cases neg with
      | false => exact hbelow
      | true => simpa [MagRounded, roundsAway, hover] using habove
    | up =>
      cases neg with
      | false => simpa [MagRounded, roundsAway, hover] using habove
      | true => exact hbelow
    | zero => exact hbelow
  · obtain ⟨hrem, hsticky⟩ : mant % unit = 0 ∧ sticky = false := by simpa using hover
    have heq : magValue K magn = t := hbelow.1.antisymm (not_lt.mp (hinexact.not.mpr hover))
    rw [hrem, hsticky, roundsAway_exact _ _ _ hpos, ← heq]
    exact magRounded_self mode neg magn

end Neighbours

end Quotient

/-! ### The last place of a result (R340) -/

theorem bitLen_pos {m : Nat} (h : m ≠ 0) : 0 < bitLen m := by
  rw [bitLen, if_neg h]
  exact Nat.succ_pos _

theorem two_pow_le_of_bitLen {m : Nat} (h : m ≠ 0) : 2 ^ (bitLen m - 1) ≤ m := by
  rw [bitLen, if_neg h]
  exact Nat.log2_self_le h

theorem lt_two_pow_bitLen (m : Nat) : m < 2 ^ bitLen m := by
  rw [bitLen]
  split
  · next h => simp [h]
  · exact Nat.lt_log2_self

/-- The exponent of the result's last place in `roundPack`. -/
def lastPlace (mant : Nat) (exp : Int) : Int := max (exp + (bitLen mant : Int) - 53) (-1074)

section LastPlace

variable {mant : Nat} {exp : Int} {sticky : Bool}

/-- At the last place the significand has at most 53 bits, … -/
theorem quotient_lt_of_lastPlace (mant : Nat) (exp : Int) :
    mant * 2 ^ (exp - lastPlace mant exp).toNat / 2 ^ (lastPlace mant exp - exp).toNat < 2 ^ 53 := by
  have hplace : exp + (bitLen mant : Int) - 53 ≤ lastPlace mant exp := le_max_left _ _
  rw [Nat.div_lt_iff_lt_mul (by positivity), ← Nat.pow_add]
  calc mant * 2 ^ (exp - lastPlace mant exp).toNat
      < 2 ^ bitLen mant * 2 ^ (exp - lastPlace mant exp).toNat :=
        Nat.mul_lt_mul_of_pos_right (lt_two_pow_bitLen mant) (by positivity)
    _ = 2 ^ (bitLen mant + (exp - lastPlace mant exp).toNat) := (Nat.pow_add ..).symm
    _ ≤ 2 ^ (53 + (lastPlace mant exp - exp).toNat) := Nat.pow_le_pow_right (by decide) (by omega)

/-- … and, unless it is the subnormals' last place, no fewer. -/
theorem le_quotient_of_lastPlace (hmant : mant ≠ 0) (hplace : lastPlace mant exp ≠ -1074) :
    2 ^ 52 ≤ mant * 2 ^ (exp - lastPlace mant exp).toNat / 2 ^ (lastPlace mant exp - exp).toNat := by
  have hplace : lastPlace mant exp = exp + (bitLen mant : Int) - 53 := by
    rw [lastPlace] at hplace ⊢
    omega
  have hlen := bitLen_pos hmant
  rw [Nat.le_div_iff_mul_le (by positivity), ← Nat.pow_add]
  calc 2 ^ (52 + (lastPlace mant exp - exp).toNat)
      ≤ 2 ^ (bitLen mant - 1 + (exp - lastPlace mant exp).toNat) := Nat.pow_le_pow_right (by decide) (by omega)
    _ = 2 ^ (bitLen mant - 1) * 2 ^ (exp - lastPlace mant exp).toNat := Nat.pow_add ..
    _ ≤ mant * 2 ^ (exp - lastPlace mant exp).toNat := Nat.mul_le_mul_right _ (two_pow_le_of_bitLen hmant)

/-- The same magnitude with an exponent that is not above the last place's. -/
theorem Describes.align (h : Describes mant exp sticky t) {q : Int} (hsticky : sticky = true → exp ≤ q) :
    Describes (mant * 2 ^ (exp - q).toNat) (min exp q) sticky t := by
  rcases le_or_gt exp q with hle | hlt
  · rw [Int.toNat_of_nonpos (by omega), min_eq_left hle, pow_zero, Nat.mul_one]
    exact h
  · obtain rfl : sticky = false := by
      rw [← Bool.not_eq_true]
      exact fun hs => absurd (hsticky hs) (by omega)
    have hmin : min exp q = exp - (exp - q).toNat := by omega
    rw [hmin]
    exact h.shift _

theorem two_pow_toNat_mul (exp q : Int) : ((2 ^ (q - exp).toNat : Nat) : K) * 2 ^ min exp q = 2 ^ q := by
  push_cast
  rw [← zpow_natCast, ← zpow_add₀ (by norm_num)]
  congr 1
  omega

/-- A sticky bit's significand has at least 55 bits, so that the last place is two or more bits up. -/
theorem add_two_le_lastPlace (h : 2 ^ 54 ≤ mant) (exp : Int) : exp + 2 ≤ lastPlace mant exp := by
  have hlen : 54 < bitLen mant := (Nat.pow_lt_pow_iff_right (by decide)).mp (h.trans_lt (lt_two_pow_bitLen mant))
  rw [lastPlace]
  omega

/-- The quotient at the last place stands for two neighbouring magnitude bits, which `roundPack` counts by adding it to
the exponent field. -/
theorem neighbours_lastPlace (hmant : mant ≠ 0) (exp : Int) :
    Neighbours K
      ((lastPlace mant exp + 1074).toNat * 2 ^ 52 +
        mant * 2 ^ (exp - lastPlace mant exp).toNat / 2 ^ (lastPlace mant exp - exp).toNat)
      (mant * 2 ^ (exp - lastPlace mant exp).toNat) (2 ^ (lastPlace mant exp - exp).toNat)
      (min exp (lastPlace mant exp)) := by
  have hbound := quotient_lt_of_lastPlace mant exp
  have hmin : -1074 ≤ lastPlace mant exp := le_max_right _ _
  have hexp : ((lastPlace mant exp + 1074).toNat : Int) - 1074 = lastPlace mant exp := by omega
  have hlead : (lastPlace mant exp + 1074).toNat = 0 ∨
      2 ^ 52 ≤ mant * 2 ^ (exp - lastPlace mant exp).toNat / 2 ^ (lastPlace mant exp - exp).toNat := by
    by_cases hplace : lastPlace mant exp = -1074
    · exact .inl (by omega)
    · exact .inr (le_quotient_of_lastPlace hmant hplace)
  refine ⟨?_, ?_, by omega⟩
  · rw [two_pow_toNat_mul, magValue_add hbound.le hlead, hexp]
  · rw [two_pow_toNat_mul, Nat.add_assoc, magValue_add (Nat.succ_le_of_lt hbound) (hlead.imp_right Nat.le_succ_of_le),
      hexp]

end LastPlace

/-- Rounded magnitude bits under a sign, with overflow (R340). -/
def packMag (mode : RoundMode) (neg : Bool) (magn : Nat) : Word64 :=
  fpPattern neg (if magn < fpInfBits then magn else overflowBits mode neg)

theorem roundPack_zero (mode : RoundMode) (neg : Bool) (exp : Int) (sticky : Bool) :
    roundPack mode neg 0 exp sticky = zeroPattern neg := by
  rw [roundPack, if_pos rfl, fpPattern_zero]

/-- `roundPack` rounds the magnitude it is told of, whatever the direction and the sign. A sticky bit needs a
significand of at least 55 bits, so that the last place is above it. -/
theorem Describes.exists_magRounded {mant : Nat} {exp : Int} {sticky : Bool} (h : Describes mant exp sticky t)
    (hsticky : sticky = true → 2 ^ 54 ≤ mant) (mode : RoundMode) (neg : Bool) :
    ∃ magn, MagRounded mode neg t magn ∧ roundPack mode neg mant exp sticky = packMag mode neg magn := by
  by_cases hmant : mant = 0
  · subst hmant
    obtain rfl : sticky = false := by
      rw [← Bool.not_eq_true]
      exact fun hs => absurd (hsticky hs) (by decide)
    have hzero : t = magValue K 0 := by simp [h.exact_iff.mp rfl]
    rw [hzero]
    exact ⟨0, magRounded_self mode neg 0, by rw [roundPack_zero, packMag, if_pos (by decide), fpPattern_zero]⟩
  · have hplace (hs : sticky = true) := add_two_le_lastPlace (hsticky hs) exp
    have haligned := h.align fun hs => le_trans (by omega) (hplace hs)
    refine ⟨_, (neighbours_lastPlace hmant exp).magRounded haligned (by positivity) (fun hover => ?_) mode neg, ?_⟩
    · have hlt : exp < lastPlace mant exp := by
        by_contra hge
        have hunit : (lastPlace mant exp - exp).toNat = 0 := by omega
        rw [hunit, pow_zero, Nat.mod_one] at hover
        have := hplace (hover.resolve_left fun hne => hne rfl)
        omega
      exact ⟨2 ^ ((lastPlace mant exp - exp).toNat - 1), by rw [← Nat.pow_succ']; congr 1; omega⟩
    · rw [roundPack, if_neg hmant]
      rfl

end Rounding

end Sys2Proof.Machine
end

section
/-! SUPPORT. From rounded magnitude bits to the rounded number (R340): the finite numbers are the values of magnitude
bits below infinity's under either sign, so the greatest, least or nearest magnitude bits give the greatest, least or
nearest number, and overflow takes the place of the bits past the largest one. -/

namespace Sys2Proof.Machine

open Sys2Proof.Config (RoundMode)

/-! ### Signs -/

section Signs

variable {K : Type*} [Field K]

theorem withSign_zero (neg : Bool) : withSign neg (0 : K) = 0 := by cases neg <;> simp [withSign]

theorem withSign_withSign (neg : Bool) (t : K) : withSign neg (withSign neg t) = t := by cases neg <;> simp [withSign]

theorem withSign_not (neg : Bool) (t : K) : withSign (!neg) t = -withSign neg t := by cases neg <;> simp [withSign]

theorem withSign_mul (neg neg' : Bool) (t u : K) :
    withSign (neg != neg') (t * u) = withSign neg t * withSign neg' u := by
  cases neg <;> cases neg' <;> simp [withSign]

theorem withSign_div (neg neg' : Bool) (t u : K) :
    withSign (neg != neg') (t / u) = withSign neg t / withSign neg' u := by
  cases neg <;> cases neg' <;> simp [withSign, neg_div, div_neg]

theorem withSign_eq_zero_iff (neg : Bool) (t : K) : withSign neg t = 0 ↔ t = 0 := by cases neg <;> simp [withSign]

variable [LinearOrder K]

theorem abs_withSign (neg : Bool) (t : K) : |withSign neg t| = |t| := by cases neg <;> simp [withSign]

/-- Two numbers under one sign are as far apart as without it. -/
theorem abs_withSign_sub (neg : Bool) (t u : K) : |withSign neg t - u| = |t - withSign neg u| := by
  cases neg
  · rfl
  · simp only [withSign, if_true]
    rw [← abs_neg]
    ring_nf

theorem withSign_abs [IsStrictOrderedRing K] (t : K) : withSign (decide (t < 0)) |t| = t := by
  by_cases h : t < 0
  · simp [withSign, h, abs_of_neg h]
  · simp [withSign, h, abs_of_nonneg (not_lt.mp h)]

end Signs

/-! ### The finite numbers -/

theorem exists_magValue_of_fpRat {x : Word64} {u : ℚ} (h : fpRat x = some u) :
    ∃ n < fpInfBits, u = magValue ℚ n ∨ u = -magValue ℚ n := by
  obtain ⟨hfin, hu⟩ := fpRat_eq_some_iff.mp h
  refine ⟨magBits x, hfin, ?_⟩
  cases hs : signOf x <;> simp [hu, hs, withSign]

/-- A finite number's negative is finite, … -/
theorem exists_fpRat_withSign (neg : Bool) {x : Word64} {u : ℚ} (h : fpRat x = some u) :
    ∃ y, fpRat y = some (withSign neg u) := by
  cases neg
  · exact ⟨x, h⟩
  · obtain ⟨hfin, hu⟩ := fpRat_eq_some_iff.mp h
    refine ⟨fpPattern (!signOf x) (magBits x), ?_⟩
    rw [fpRat_fpPattern _ hfin, withSign_not, ← hu]
    rfl

/-- … and so is its magnitude. -/
theorem exists_fpRat_abs {x : Word64} {u : ℚ} (h : fpRat x = some u) : ∃ y, fpRat y = some |u| := by
  rcases abs_choice u with habs | habs <;> rw [habs]
  · exact ⟨x, h⟩
  · exact exists_fpRat_withSign true h

/-! ### Overflow -/

theorem fpMaxBits_lt : fpMaxBits < fpInfBits := by decide

/-- Toward zero the largest finite number takes the place of anything past it. -/
theorem ite_fpMaxBits (magn : Nat) : (if magn < fpInfBits then magn else fpMaxBits) = min magn fpMaxBits := by
  have hsucc : fpInfBits = fpMaxBits + 1 := by decide
  split <;> omega

/-- The overflow bound is the middle between the largest finite number and the value past it. -/
theorem two_mul_overflowBound : 2 * overflowBound = magValue ℚ fpMaxBits + magValue ℚ fpInfBits := by
  have hmax : magValue ℚ fpMaxBits = (2 ^ 53 - 1) * 2 ^ (971 : Int) := by
    norm_num [magValue, magMant, magExp, fpMaxBits]
  have hinf : magValue ℚ fpInfBits = 2 ^ 52 * 2 ^ (972 : Int) := by
    norm_num [magValue, magMant, magExp, fpInfBits]
  have h971 : (2 : ℚ) ^ (971 : Int) = 2 * 2 ^ 970 := (zpow_natCast 2 971).trans (pow_succ' 2 970)
  have h972 : (2 : ℚ) ^ (972 : Int) = 2 ^ 2 * 2 ^ 970 := (zpow_natCast 2 972).trans (pow_add 2 2 970)
  have h1024 : (2 : ℚ) ^ 1024 = 2 ^ 54 * 2 ^ 970 := pow_add 2 54 970
  rw [hmax, hinf, overflowBound, h971, h972, h1024]
  generalize (2 : ℚ) ^ 970 = p
  ring

theorem overflowBound_pos : 0 < overflowBound :=
  sub_pos.mpr (pow_lt_pow_right₀ (by norm_num) (by norm_num))

section Rounded

variable {t : ℚ} {magn : Nat}

/-- Rounded to nearest, a magnitude stays finite below the overflow bound, and only there. -/
theorem MagNearest.lt_fpInfBits_iff (h : MagNearest t magn) : magn < fpInfBits ↔ t < overflowBound := by
  have hbound := two_mul_overflowBound
  have hmax : magValue ℚ fpMaxBits < magValue ℚ fpInfBits := magValue_strictMono fpMaxBits_lt
  constructor
  · intro hlt
    by_contra! hge
    have hle : magValue ℚ magn ≤ magValue ℚ fpMaxBits := magValue_strictMono.monotone (Nat.le_of_lt_succ hlt)
    obtain ⟨hnear, htie⟩ := h fpInfBits
    rw [abs_of_neg (by linarith)] at hnear htie
    rcases abs_cases (magValue ℚ fpInfBits - t) with ⟨habs, -⟩ | ⟨habs, -⟩
    · rw [habs] at hnear htie
      have hodd := htie (by linarith) hlt.ne'
      have heq : magn = fpMaxBits := (magValue_strictMono (K := ℚ)).injective (by linarith)
      rw [heq] at hodd
      exact absurd hodd (by decide)
    · linarith
  · intro hlt
    by_contra! hge
    have hle : magValue ℚ fpInfBits ≤ magValue ℚ magn := magValue_strictMono.monotone hge
    have hnear := (h fpMaxBits).1
    rw [abs_of_pos (by linarith)] at hnear
    rcases abs_cases (magValue ℚ fpMaxBits - t) with ⟨habs, -⟩ | ⟨habs, -⟩ <;> linarith

/-! ### The four directions -/

/-- The magnitude bits below `t`, cut at the largest finite number, are those of the greatest finite number not above
`t`. -/
theorem MagBelow.greatest (h : MagBelow t magn) {x : Word64} {u : ℚ} (hx : fpRat x = some u) (hu : u ≤ t) :
    u ≤ magValue ℚ (min magn fpMaxBits) := by
  obtain ⟨n, hn, rfl | rfl⟩ := exists_magValue_of_fpRat hx
  · exact magValue_strictMono.monotone (le_min (h.le_of_magValue_le hu) (Nat.le_of_lt_succ hn))
  · exact (neg_nonpos.mpr (magValue_nonneg n)).trans (magValue_nonneg _)

/-- The magnitude bits above `t` are those of the least finite number not below `t`, if there is one. -/
theorem MagAbove.least (h : MagAbove t magn) (ht : 0 ≤ t) {x : Word64} {u : ℚ} (hx : fpRat x = some u) (hu : t ≤ u) :
    magn < fpInfBits ∧ magValue ℚ magn ≤ u := by
  obtain ⟨n, hn, hvalue⟩ := exists_magValue_of_fpRat hx
  obtain rfl : u = magValue ℚ n := by
    have := magValue_nonneg (K := ℚ) n
    rcases hvalue with rfl | rfl <;> linarith
  have hle : magn ≤ n := Nat.le_of_not_lt fun hlt => (h.2 n hlt).not_ge hu
  exact ⟨hle.trans_lt hn, magValue_strictMono.monotone hle⟩

theorem MagBelow.magValue_min_le (h : MagBelow t magn) : magValue ℚ (min magn fpMaxBits) ≤ t :=
  (magValue_strictMono.monotone (min_le_left _ _)).trans h.1

theorem fpRat_fpPattern_min (neg : Bool) (magn : Nat) :
    fpRat (fpPattern neg (min magn fpMaxBits)) = some (withSign neg (magValue ℚ (min magn fpMaxBits))) :=
  fpRat_fpPattern neg ((min_le_right _ _).trans_lt fpMaxBits_lt)

theorem MagBelow.roundedDown (h : MagBelow t magn) : RoundedDown t (packMag .down false magn) := by
  rw [packMag, overflowBits, if_neg Bool.false_ne_true, ite_fpMaxBits]
  exact .inl ⟨_, fpRat_fpPattern_min false magn, h.magValue_min_le, fun x u => h.greatest⟩

theorem MagBelow.roundedUp (h : MagBelow t magn) : RoundedUp (-t) (packMag .up true magn) := by
  rw [packMag, overflowBits, if_pos rfl, ite_fpMaxBits]
  refine .inl ⟨_, fpRat_fpPattern_min true magn, neg_le_neg h.magValue_min_le, fun x u hx hu => ?_⟩
  obtain ⟨y, hy⟩ := exists_fpRat_withSign true hx
  exact neg_le.mp (h.greatest hy (neg_le.mp hu))

theorem MagBelow.roundedToZero (h : MagBelow t magn) (ht : 0 ≤ t) (neg : Bool) :
    RoundedToZero (withSign neg t) (packMag .zero neg magn) := by
  have hvalue : 0 ≤ magValue ℚ (min magn fpMaxBits) := magValue_nonneg _
  rw [packMag, overflowBits, ite_fpMaxBits]
  refine ⟨_, fpRat_fpPattern_min neg magn, ?_, ?_, fun x u hx hu => ?_⟩
  · rw [abs_withSign, abs_withSign, abs_of_nonneg hvalue, abs_of_nonneg ht]
    exact h.magValue_min_le
  · rw [← withSign_mul, bne_self_eq_false]
    exact mul_nonneg hvalue ht
  · obtain ⟨y, hy⟩ := exists_fpRat_abs hx
    rw [abs_withSign, abs_of_nonneg ht] at hu
    rw [abs_withSign, abs_of_nonneg hvalue]
    exact h.greatest hy hu

theorem MagAbove.roundedUp (h : MagAbove t magn) (ht : 0 ≤ t) : RoundedUp t (packMag .up false magn) := by
  rw [packMag]
  split
  · next hfin => exact .inl ⟨_, fpRat_fpPattern false hfin, h.1, fun x u hx hu => (h.least ht hx hu).2⟩
  · next hover =>
    refine .inr ⟨fpDecode_infPattern false, fun x u hx => not_le.mp fun hu => hover (h.least ht hx hu).1⟩

theorem MagAbove.roundedDown (h : MagAbove t magn) (ht : 0 ≤ t) : RoundedDown (-t) (packMag .down true magn) := by
  have hleast {x : Word64} {u : ℚ} (hx : fpRat x = some u) (hu : u ≤ -t) :
      magn < fpInfBits ∧ magValue ℚ magn ≤ -u := by
    obtain ⟨y, hy⟩ := exists_fpRat_withSign true hx
    exact h.least ht hy (le_neg.mp hu)
  rw [packMag]
  split
  · next hfin =>
    exact .inl ⟨_, fpRat_fpPattern true hfin, neg_le_neg h.1, fun x u hx hu => le_neg.mp (hleast hx hu).2⟩
  · next hover =>
    exact .inr ⟨fpDecode_infPattern true, fun x u hx => not_le.mp fun hu => hover (hleast hx hu).1⟩

theorem MagNearest.roundedNearest (h : MagNearest t magn) (ht : 0 ≤ t) (neg : Bool) :
    RoundedNearest (withSign neg t) (packMag .nearestEven neg magn) := by
  rw [RoundedNearest, abs_withSign, abs_of_nonneg ht, packMag]
  split
  · next hfin =>
    refine .inl ⟨h.lt_fpInfBits_iff.mp hfin, _, fpRat_fpPattern neg hfin, fun x u hx => ?_⟩
    rw [fpPattern_even_iff neg (hfin.trans (by decide)), abs_withSign_sub, withSign_withSign]
    obtain ⟨y, hy⟩ := exists_fpRat_withSign neg hx
    have hdist : |u - withSign neg t| = |withSign neg u - t| := (abs_withSign_sub neg u t).symm
    obtain ⟨n, -, hn | hn⟩ := exists_magValue_of_fpRat hy
    · rw [hdist, hn]
      refine ⟨(h n).1, fun heq hne => (h n).2 heq ?_⟩
      rintro rfl
      exact hne (by rw [← hn, withSign_withSign])
    · have hnonneg := magValue_nonneg (K := ℚ) n
      obtain ⟨hnear, htie⟩ := h 0
      rw [magValue_zero, zero_sub, abs_neg, abs_of_nonneg ht] at hnear htie
      have hfar : |-magValue ℚ n - t| = magValue ℚ n + t := by
        rw [← neg_add', abs_neg, abs_of_nonneg (by linarith)]
      rw [hdist, hn, hfar]
      refine ⟨by linarith, fun heq _ => ?_⟩
      by_cases hzero : magn = 0
      · rw [hzero]
      · exact htie (by linarith) (Ne.symm hzero)
  · next hover =>
    have hbound : overflowBound ≤ t := not_lt.mp (h.lt_fpInfBits_iff.not.mp hover)
    have hpos : 0 < t := overflowBound_pos.trans_le hbound
    refine .inr ⟨hbound, ?_⟩
    rw [overflowBits, fpPattern_fpInfBits, fpDecode_infPattern]
    cases neg <;> simp [withSign, hpos, hpos.le]

/-- Rounded magnitude bits under a sign, packed, are the number rounded in that direction. -/
theorem MagRounded.rounded {mode : RoundMode} {neg : Bool} (h : MagRounded mode neg t magn) (ht : 0 ≤ t) :
    Rounded mode (withSign neg t) (packMag mode neg magn) := by
  cases mode with
  | nearestEven => exact MagNearest.roundedNearest h ht neg
  | down =>
    cases neg with
    | false => exact MagBelow.roundedDown h
    | true => exact MagAbove.roundedDown h ht
  | up =>
    cases neg with
    | false => exact MagAbove.roundedUp h ht
    | true => exact MagBelow.roundedUp h
  | zero => exact MagBelow.roundedToZero h ht neg

/-- What `roundPack` gives for a magnitude it is told of, under a sign. -/
theorem Describes.rounded {mant : Nat} {exp : Int} {sticky : Bool} (h : Describes mant exp sticky t)
    (hsticky : sticky = true → 2 ^ 54 ≤ mant) (mode : RoundMode) (neg : Bool) :
    Rounded mode (withSign neg t) (roundPack mode neg mant exp sticky) := by
  obtain ⟨magn, hrounded, hpack⟩ := h.exists_magRounded hsticky mode neg
  rw [hpack]
  exact hrounded.rounded (le_trans (by positivity) h.lower)

end Rounded

end Sys2Proof.Machine
end

section
/-! SUPPORT. O18, the four operations. Each tells `roundPack` its exact result: a sum or a product as it is, a quotient
with 120 bits more and what is left over. -/

namespace Sys2Proof.Machine

open Sys2Proof.Config (RoundMode)

/-! ### Finite operands -/

/-- The value of a sign, a significand and an exponent. -/
def finValue (s : Bool) (m : Nat) (g : Int) : ℚ := withSign s ((m : ℚ) * 2 ^ g)

/-- A finite number taken apart: its sign, and a significand of at most 53 bits at its exponent. -/
theorem exists_fpDecode_of_fpRat {x : Word64} {u : ℚ} (h : fpRat x = some u) :
    ∃ m g, fpDecode x = .fin (signOf x) m g ∧ u = finValue (signOf x) m g ∧ m < 2 ^ 53 := by
  obtain ⟨hfin, hu⟩ := fpRat_eq_some_iff.mp h
  refine ⟨_, _, by rw [fpDecode_eq, if_pos hfin], hu, ?_⟩
  rw [magMant]
  split <;> omega

theorem finValue_eq_zero_iff (s : Bool) (m : Nat) (g : Int) : finValue s m g = 0 ↔ m = 0 := by
  have hpow : (2 : ℚ) ^ g ≠ 0 := by positivity
  rw [finValue, withSign_eq_zero_iff, mul_eq_zero, Nat.cast_eq_zero]
  exact or_iff_left hpow

theorem neg_finValue (s : Bool) (m : Nat) (g : Int) : -finValue s m g = finValue (!s) m g := (withSign_not _ _).symm

theorem rounded_zeroPattern (mode : RoundMode) (neg : Bool) : Rounded mode 0 (zeroPattern neg) := by
  have h := (Describes.of_exact (K := ℚ) 0 0).rounded nofun mode neg
  rwa [roundPack_zero, Nat.cast_zero, zero_mul, withSign_zero] at h

/-! ### Sums and differences (R347–R350) -/

theorem signedMant_value (s : Bool) (m : Nat) {g base : Int} (h : base ≤ g) :
    (signedMant s m g base : ℚ) * 2 ^ base = finValue s m g := by
  have hpow : (2 : ℚ) ^ g = 2 ^ (g - base).toNat * 2 ^ base := by
    rw [← zpow_natCast, ← zpow_add₀ (by norm_num)]
    congr 1
    omega
  rw [signedMant, finValue, hpow]
  cases s <;> simp [withSign, mul_assoc]

/-- The sum of two finite numbers: rounded, and with IEEE 754's sign where it is zero. -/
theorem fpSum_fin (mode : RoundMode) (nan : Word64) (s t : Bool) (m n : Nat) (g h : Int) :
    Rounded mode (finValue s m g + finValue t n h) (fpSum mode nan (.fin s m g) (.fin t n h)) ∧
    (finValue s m g + finValue t n h = 0 →
      fpSum mode nan (.fin s m g) (.fin t n h) = zeroPattern (if s = t then s else decide (mode = .down))) := by
  have hpow : (0 : ℚ) < 2 ^ min g h := by positivity
  have hsum : finValue s m g + finValue t n h =
      (signedMant s m g (min g h) + signedMant t n h (min g h) : Int) * 2 ^ min g h := by
    rw [Int.cast_add, add_mul, signedMant_value s m (min_le_left g h), signedMant_value t n (min_le_right g h)]
  simp only [fpSum]
  generalize signedMant s m g (min g h) + signedMant t n h (min g h) = total at hsum ⊢
  generalize finValue s m g + finValue t n h = sum at hsum ⊢
  split
  · next hzero =>
    rw [hsum, hzero, Int.cast_zero, zero_mul, fpPattern_zero]
    exact ⟨rounded_zeroPattern mode _, fun _ => rfl⟩
  · next hne =>
    refine ⟨?_, fun hzero => ?_⟩
    · have hsign : decide (total < 0) = decide (sum < 0) := by
        rw [hsum, decide_eq_decide, mul_neg_iff]
        simp [hpow, hpow.not_gt]
      have habs : (total.natAbs : ℚ) * 2 ^ min g h = |sum| := by
        rw [hsum, abs_mul, abs_of_pos hpow, Nat.cast_natAbs, Int.cast_abs]
      have h := (Describes.of_exact (K := ℚ) total.natAbs (min g h)).rounded nofun mode (decide (total < 0))
      rw [habs, hsign, withSign_abs] at h
      rwa [hsign]
    · rw [hsum, mul_eq_zero, Int.cast_eq_zero] at hzero
      exact absurd (hzero.resolve_right hpow.ne') hne

/-! ### Quotients (R353) -/

/-- A quotient cut to a whole number, with what is left over as the sticky bit. -/
theorem describes_div (a : Nat) {b : Nat} (hb : b ≠ 0) (exp : Int) :
    Describes (a / b) exp (decide (a % b ≠ 0)) ((a : ℚ) / b * 2 ^ exp) := by
  have hpow : (0 : ℚ) < 2 ^ exp := by positivity
  have hb : (0 : ℚ) < b := by positivity
  have hdiv : (a : ℚ) / b = (a / b : Nat) + (a % b : Nat) / b := by
    rw [div_eq_iff hb.ne', add_mul, div_mul_cancel₀ _ hb.ne']
    exact_mod_cast (Nat.div_add_mod' a b).symm
  have hrem : ((a % b : Nat) : ℚ) / b < 1 := by
    rw [div_lt_one hb]
    exact_mod_cast Nat.mod_lt a (by exact_mod_cast hb)
  rw [hdiv]
  refine ⟨?_, ?_, ?_⟩
  · exact mul_le_mul_of_nonneg_right (le_add_of_nonneg_right (by positivity)) hpow.le
  · exact mul_lt_mul_of_pos_right (by linarith) hpow
  · rw [mul_left_inj' hpow.ne', add_eq_left, div_eq_zero_iff, or_iff_left hb.ne']
    simp

/-- A quotient of two finite numbers, the divisor not 0, is rounded. -/
theorem rounded_quotient (mode : RoundMode) (s t : Bool) {m n : Nat} (g h : Int) (hn : n ≠ 0) (hlen : n < 2 ^ 53) :
    Rounded mode (finValue s m g / finValue t n h)
      (roundPack mode (s != t) (m * 2 ^ divBits / n) (g - h - divBits) (decide (m * 2 ^ divBits % n ≠ 0))) := by
  have hexact : ((m * 2 ^ divBits : Nat) : ℚ) / n * 2 ^ (g - h - divBits) = (m * 2 ^ g) / (n * 2 ^ h) := by
    rw [zpow_sub₀ (by norm_num), zpow_sub₀ (by norm_num), zpow_natCast]
    push_cast
    field_simp
  rw [finValue, finValue, ← withSign_div, ← hexact]
  refine (describes_div _ hn _).rounded (fun hsticky => ?_) mode _
  have hm : m ≠ 0 := by
    rintro rfl
    simp at hsticky
  rw [Nat.le_div_iff_mul_le (Nat.pos_of_ne_zero hn)]
  calc 2 ^ 54 * n ≤ 2 ^ 54 * 2 ^ 53 := Nat.mul_le_mul_left _ hlen.le
    _ ≤ 2 ^ divBits := by decide
    _ ≤ m * 2 ^ divBits := Nat.le_mul_of_pos_left _ (Nat.pos_of_ne_zero hm)

/-! ### The sign of a product or a quotient -/

theorem signOf_packed (mode : RoundMode) (neg : Bool) (magn : Nat) :
    signOf (fpPattern neg (if magn < fpInfBits then magn else overflowBits mode neg)) = neg :=
  signOf_fpPattern neg ((ite_overflowBits_le mode neg magn).trans_lt (by decide))

theorem signOf_roundPack (mode : RoundMode) (neg : Bool) (mant : Nat) (exp : Int) (sticky : Bool) :
    signOf (roundPack mode neg mant exp sticky) = neg := by
  rw [roundPack]
  split
  · exact signOf_fpPattern neg (by decide)
  · exact signOf_packed mode neg _

theorem signOf_infinity (neg : Bool) : signOf (fpPattern neg fpInfBits) = neg := signOf_fpPattern neg (by decide)

/-- A product that is no NaN has the exclusive or of the signs. -/
theorem signOf_fmul (mode : RoundMode) (x y : Word64) :
    IsNaN (fmul mode x y) ∨ signOf (fmul mode x y) = (signOf x != signOf y) := by
  unfold fmul
  split
  · exact .inl (isNaN_nanResult ..)
  · exact .inl (isNaN_nanResult ..)
  · next hx hy =>
    rw [signOf_of_fpDecode_inf hx, signOf_of_fpDecode_inf hy]
    exact .inr (signOf_infinity _)
  · next hx hy =>
    rw [signOf_of_fpDecode_inf hx, signOf_of_fpDecode_fin hy]
    split
    · exact .inl (isNaN_nanResult ..)
    · exact .inr (signOf_infinity _)
  · next hx hy =>
    rw [signOf_of_fpDecode_fin hx, signOf_of_fpDecode_inf hy]
    split
    · exact .inl (isNaN_nanResult ..)
    · exact .inr (signOf_infinity _)
  · next hx hy =>
    rw [signOf_of_fpDecode_fin hx, signOf_of_fpDecode_fin hy]
    exact .inr (signOf_roundPack ..)

/-- A quotient that is no NaN has the exclusive or of the signs. -/
theorem signOf_fdiv (mode : RoundMode) (x y : Word64) :
    IsNaN (fdiv mode x y) ∨ signOf (fdiv mode x y) = (signOf x != signOf y) := by
  unfold fdiv
  split
  · exact .inl (isNaN_nanResult ..)
  · exact .inl (isNaN_nanResult ..)
  · exact .inl (isNaN_nanResult ..)
  · next hx hy =>
    rw [signOf_of_fpDecode_inf hx, signOf_of_fpDecode_fin hy]
    exact .inr (signOf_infinity _)
  · next hx hy =>
    rw [signOf_of_fpDecode_fin hx, signOf_of_fpDecode_inf hy]
    exact .inr (signOf_fpPattern _ (by decide))
  · next hx hy =>
    rw [signOf_of_fpDecode_fin hx, signOf_of_fpDecode_fin hy]
    split
    · split
      · exact .inl (isNaN_nanResult ..)
      · exact .inr (signOf_infinity _)
    · exact .inr (signOf_roundPack ..)

/-! ### The operations on finite numbers -/

section Finite

variable {x y : Word64} {a b : ℚ} (hx : fpRat x = some a) (hy : fpRat y = some b) (mode : RoundMode)
include hx hy

theorem fadd_of_finite : Rounded mode (a + b) (fadd mode x y) ∧
    (a + b = 0 →
      fadd mode x y = zeroPattern (if signOf x = signOf y then signOf x else decide (mode = .down))) := by
  obtain ⟨m, g, hm, rfl, -⟩ := exists_fpDecode_of_fpRat hx
  obtain ⟨n, h, hn, rfl, -⟩ := exists_fpDecode_of_fpRat hy
  rw [fadd, hm, hn]
  exact fpSum_fin ..

theorem fsub_of_finite : Rounded mode (a - b) (fsub mode x y) ∧
    (a - b = 0 →
      fsub mode x y = zeroPattern (if signOf x = !signOf y then signOf x else decide (mode = .down))) := by
  obtain ⟨m, g, hm, rfl, -⟩ := exists_fpDecode_of_fpRat hx
  obtain ⟨n, h, hn, rfl, -⟩ := exists_fpDecode_of_fpRat hy
  rw [fsub, hm, hn, sub_eq_add_neg, neg_finValue]
  exact fpSum_fin ..

theorem fmul_of_finite : Rounded mode (a * b) (fmul mode x y) := by
  obtain ⟨m, g, hm, rfl, -⟩ := exists_fpDecode_of_fpRat hx
  obtain ⟨n, h, hn, rfl, -⟩ := exists_fpDecode_of_fpRat hy
  have hexact : ((m * n : Nat) : ℚ) * 2 ^ (g + h) = (m * 2 ^ g) * (n * 2 ^ h) := by
    rw [zpow_add₀ (by norm_num)]
    push_cast
    ring
  simp only [fmul, hm, hn]
  rw [finValue, finValue, ← withSign_mul, ← hexact]
  exact (Describes.of_exact _ _).rounded nofun mode _

theorem fdiv_of_finite : (b ≠ 0 → Rounded mode (a / b) (fdiv mode x y)) ∧
    (b = 0 → (a = 0 → IsNaN (fdiv mode x y)) ∧ (a ≠ 0 → fdiv mode x y = infPattern (signOf x != signOf y))) := by
  obtain ⟨m, g, hm, rfl, -⟩ := exists_fpDecode_of_fpRat hx
  obtain ⟨n, h, hn, rfl, hlen⟩ := exists_fpDecode_of_fpRat hy
  simp only [ne_eq, finValue_eq_zero_iff, fdiv, hm, hn]
  refine ⟨fun hzero => ?_, fun hzero => ?_⟩
  · rw [if_neg hzero]
    exact rounded_quotient mode _ _ g h hzero hlen
  · rw [if_pos hzero]
    refine ⟨fun hm => ?_, fun hm => ?_⟩
    · rw [if_pos hm]
      exact isNaN_nanResult ..
    · rw [if_neg hm, fpPattern_fpInfBits]

end Finite

/-! ### Not a number -/

theorem isNaN_of_operand (mode : RoundMode) {x y : Word64} (h : IsNaN x ∨ IsNaN y) :
    IsNaN (fadd mode x y) ∧ IsNaN (fsub mode x y) ∧ IsNaN (fmul mode x y) ∧ IsNaN (fdiv mode x y) := by
  rcases h with h | h
  · rw [IsNaN] at h
    simp [fadd, fsub, fpSum, fmul, fdiv, h, isNaN_nanResult]
  · rw [IsNaN] at h
    cases hx : fpDecode x <;> simp [fadd, fsub, fpSum, fmul, fdiv, FpVal.negate, h, hx, isNaN_nanResult]

/-! ### Infinities -/

theorem infinity_with_infinity (mode : RoundMode) (m n : Bool) :
    (m = n → fadd mode (infPattern m) (infPattern n) = infPattern m) ∧
    (m ≠ n → IsNaN (fadd mode (infPattern m) (infPattern n))) ∧
    (m ≠ n → fsub mode (infPattern m) (infPattern n) = infPattern m) ∧
    (m = n → IsNaN (fsub mode (infPattern m) (infPattern n))) ∧
    fmul mode (infPattern m) (infPattern n) = infPattern (m != n) ∧
    IsNaN (fdiv mode (infPattern m) (infPattern n)) := by
  simp only [fadd, fsub, fmul, fdiv, fpDecode_infPattern, FpVal.negate, fpSum, fpPattern_fpInfBits]
  cases m <;> cases n <;> simp [isNaN_nanResult]

theorem infinity_with_finite (mode : RoundMode) (m : Bool) {x : Word64} {a : ℚ} (hx : fpRat x = some a) :
    fadd mode (infPattern m) x = infPattern m ∧ fadd mode x (infPattern m) = infPattern m ∧
    fsub mode (infPattern m) x = infPattern m ∧ fsub mode x (infPattern m) = infPattern (!m) ∧
    (a ≠ 0 → fmul mode (infPattern m) x = infPattern (m != signOf x) ∧
      fmul mode x (infPattern m) = infPattern (m != signOf x)) ∧
    (a = 0 → IsNaN (fmul mode (infPattern m) x) ∧ IsNaN (fmul mode x (infPattern m))) ∧
    fdiv mode (infPattern m) x = infPattern (m != signOf x) ∧
    fdiv mode x (infPattern m) = zeroPattern (m != signOf x) := by
  obtain ⟨n, g, hn, rfl, -⟩ := exists_fpDecode_of_fpRat hx
  have hcomm : (signOf x != m) = (m != signOf x) := Bool.xor_comm _ _
  simp only [fadd, fsub, fmul, fdiv, fpDecode_infPattern, hn, FpVal.negate, fpSum, fpPattern_fpInfBits,
    fpPattern_zero, hcomm, ne_eq, finValue_eq_zero_iff, true_and, and_true]
  exact ⟨fun hzero => by simp [hzero], fun hzero => by simp [hzero, isNaN_nanResult]⟩

/-- Settles O18: finite operands are rounded from the exact result, the rest is IEEE 754's table of special cases. -/
theorem arithmeticRoundsCorrectly : Obligations.ArithmeticRoundsCorrectly := by
  refine ⟨fun mode x y a b hx hy => ?_, fun mode x y => isNaN_of_operand mode, infinity_with_infinity,
    fun mode m x a => infinity_with_finite mode m, fun mode x y => ?_⟩
  · obtain ⟨hadd, hadd0⟩ := fadd_of_finite hx hy mode
    obtain ⟨hsub, hsub0⟩ := fsub_of_finite hx hy mode
    obtain ⟨hdiv, hdiv0⟩ := fdiv_of_finite hx hy mode
    exact ⟨hadd, hsub, fmul_of_finite hx hy mode, hdiv, hadd0, hsub0, hdiv0⟩
  · exact ⟨(signOf_fmul mode x y).resolve_left, (signOf_fdiv mode x y).resolve_left⟩

end Sys2Proof.Machine
end

section
/-! SUPPORT. O19, the square root (R354). The root is a real number, described to `roundPack` by the integer root of a
significand of at least 109 bits; its rounded magnitude bits are compared with it by squares. -/

namespace Sys2Proof.Machine

open Sys2Proof.Config (RoundMode)

/-! ### The integer root -/

/-- The root found from bit `b` − 1 down, if the one given is right but for what is below `2^b`. -/
theorem isqrtFrom_spec (n b root : Nat) (hlow : root * root ≤ n) (hhigh : n < (root + 2 ^ b) * (root + 2 ^ b)) :
    isqrtFrom n b root * isqrtFrom n b root ≤ n ∧ n < (isqrtFrom n b root + 1) * (isqrtFrom n b root + 1) := by
  induction b generalizing root with
  | zero => exact ⟨hlow, hhigh⟩
  | succ b ih =>
    simp only [isqrtFrom]
    split
    · next hbit =>
      refine ih _ hbit ?_
      rwa [Nat.add_assoc, ← Nat.two_mul, ← Nat.pow_succ']
    · next hbit => exact ih _ hlow (Nat.lt_of_not_le hbit)

theorem isqrt_spec (n : Nat) : isqrt n * isqrt n ≤ n ∧ n < (isqrt n + 1) * (isqrt n + 1) := by
  refine isqrtFrom_spec n _ 0 (Nat.zero_le n) ?_
  rw [Nat.zero_add, ← Nat.pow_add]
  exact (lt_two_pow_bitLen n).trans_le (Nat.pow_le_pow_right (by decide) (by omega))

/-- The integer root, with what is left over as the sticky bit. -/
theorem describes_sqrt (n : Nat) (exp : Int) :
    Describes (isqrt n) exp (decide (isqrt n * isqrt n ≠ n)) (√(n : ℝ) * 2 ^ exp) := by
  have hpow : (0 : ℝ) < 2 ^ exp := by positivity
  obtain ⟨hlow, hhigh⟩ := isqrt_spec n
  refine ⟨mul_le_mul_of_nonneg_right ?_ hpow.le, mul_lt_mul_of_pos_right ?_ hpow, ?_⟩
  · exact Real.le_sqrt_of_sq_le (by rw [sq]; exact_mod_cast hlow)
  · rw [Real.sqrt_lt' (by positivity), sq]
    exact_mod_cast hhigh
  · rw [mul_left_inj' hpow.ne', Real.sqrt_eq_iff_mul_self_eq (by positivity) (by positivity)]
    norm_cast
    rw [decide_eq_false_iff_not, not_not]
    exact eq_comm

/-- The root of a finite number that is positive, as `fsqrt` hands it to `roundPack`. -/
theorem describes_root {m : Nat} (hm : m ≠ 0) (g : Int) :
    Describes (isqrt (m * 2 ^ sqrtBits g)) ((g - sqrtBits g) / 2)
      (decide (isqrt (m * 2 ^ sqrtBits g) * isqrt (m * 2 ^ sqrtBits g) ≠ m * 2 ^ sqrtBits g)) √((m : ℝ) * 2 ^ g) ∧
    2 ^ 54 ≤ isqrt (m * 2 ^ sqrtBits g) := by
  constructor
  · have heven : g = sqrtBits g + (g - sqrtBits g) / 2 * 2 := by
      rw [sqrtBits]
      omega
    have hroot : √((m : ℝ) * 2 ^ g) = √((m * 2 ^ sqrtBits g : Nat) : ℝ) * 2 ^ ((g - sqrtBits g) / 2) := by
      have hpow : (2 : ℝ) ^ g = 2 ^ sqrtBits g * (2 ^ ((g - sqrtBits g) / 2)) ^ 2 := by
        nth_rw 1 [heven]
        rw [zpow_add₀ (by norm_num), zpow_mul, zpow_natCast]
        rfl
      rw [hpow, ← mul_assoc, Real.sqrt_mul (by positivity), Real.sqrt_sq (by positivity)]
      push_cast
      rfl
    rw [hroot]
    exact describes_sqrt _ _
  · have hhigh := (isqrt_spec (m * 2 ^ sqrtBits g)).2
    have hscaled : 2 ^ 54 * 2 ^ 54 ≤ m * 2 ^ sqrtBits g := by
      calc 2 ^ 54 * 2 ^ 54 = 2 ^ 108 := by norm_num
        _ ≤ 2 ^ sqrtBits g := Nat.pow_le_pow_right (by decide) (Nat.le_add_right _ _)
        _ ≤ m * 2 ^ sqrtBits g := Nat.le_mul_of_pos_left _ (Nat.pos_of_ne_zero hm)
    exact Nat.le_of_lt_succ (Nat.mul_self_lt_mul_self_iff.mp (hscaled.trans_lt hhigh))

/-! ### Comparing with a root by squares -/

section Squares

variable {a w : ℚ}

theorem le_sqrt_iff_mul_self (ha : 0 ≤ a) (hw : 0 ≤ w) : (w : ℝ) ≤ √(a : ℝ) ↔ w * w ≤ a := by
  rw [Real.le_sqrt (by exact_mod_cast hw) (by exact_mod_cast ha), sq]
  exact_mod_cast Iff.rfl

theorem sqrt_le_iff_mul_self (hw : 0 ≤ w) : √(a : ℝ) ≤ w ↔ a ≤ w * w := by
  rw [Real.sqrt_le_left (by exact_mod_cast hw), sq]
  exact_mod_cast Iff.rfl

end Squares

/-- A finite number that is not negative is the value of magnitude bits. -/
theorem exists_magValue_of_nonneg {x : Word64} {u : ℚ} (h : fpRat x = some u) (hu : 0 ≤ u) :
    ∃ n < fpInfBits, u = magValue ℚ n := by
  obtain ⟨n, hn, hvalue⟩ := exists_magValue_of_fpRat h
  have := magValue_nonneg (K := ℚ) n
  exact ⟨n, hn, by rcases hvalue with rfl | rfl <;> linarith⟩

/-! ### The four directions -/

/-- Seen from the nearest magnitude bits, `t` is not past the middle towards any others, and in the middle only if
they are even. -/
theorem MagNearest.middle {K : Type*} [Field K] [LinearOrder K] [IsStrictOrderedRing K] {t : K} {magn : Nat}
    (h : MagNearest t magn) (n : Nat) :
    (magValue K n < magValue K magn → (magValue K n + magValue K magn) / 2 ≤ t) ∧
    (magValue K magn < magValue K n → t ≤ (magValue K n + magValue K magn) / 2) ∧
    (magValue K n ≠ magValue K magn → (magValue K n + magValue K magn) / 2 = t → magn % 2 = 0) := by
  obtain ⟨hnear, htie⟩ := h n
  refine ⟨fun hlt => ?_, fun hlt => ?_, fun hne hmid => htie ?_ fun heq => hne (by rw [heq])⟩
  · by_contra! hmid
    rw [abs_of_pos (by linarith)] at hnear
    rcases abs_cases (magValue K n - t) with ⟨habs, -⟩ | ⟨habs, -⟩ <;> linarith
  · by_contra! hmid
    rw [abs_of_neg (by linarith)] at hnear
    rcases abs_cases (magValue K n - t) with ⟨habs, -⟩ | ⟨habs, -⟩ <;> linarith
  · rw [← hmid, ← abs_neg]
    congr 1
    ring

section Root

variable {a : ℚ} {magn : Nat}

theorem MagBelow.root_le (ha : 0 ≤ a) (h : MagBelow √(a : ℝ) magn) :
    magValue ℚ magn * magValue ℚ magn ≤ a ∧
      ∀ x u, fpRat x = some u → 0 ≤ u → u * u ≤ a → u ≤ magValue ℚ magn := by
  obtain ⟨hle, -⟩ := id h
  rw [← magValue_cast, le_sqrt_iff_mul_self ha (magValue_nonneg _)] at hle
  refine ⟨hle, fun x u hx hu hsq => ?_⟩
  obtain ⟨n, -, rfl⟩ := exists_magValue_of_nonneg hx hu
  rw [← le_sqrt_iff_mul_self ha hu, magValue_cast] at hsq
  exact magValue_strictMono.monotone (h.le_of_magValue_le hsq)

theorem MagAbove.le_root (h : MagAbove √(a : ℝ) magn) :
    a ≤ magValue ℚ magn * magValue ℚ magn ∧
      ∀ x u, fpRat x = some u → 0 ≤ u → a ≤ u * u → magValue ℚ magn ≤ u := by
  obtain ⟨hle, hleast⟩ := h
  rw [← magValue_cast, sqrt_le_iff_mul_self (magValue_nonneg _)] at hle
  refine ⟨hle, fun x u hx hu hsq => ?_⟩
  obtain ⟨n, -, rfl⟩ := exists_magValue_of_nonneg hx hu
  rw [← sqrt_le_iff_mul_self hu, magValue_cast] at hsq
  exact magValue_strictMono.monotone (Nat.le_of_not_lt fun hlt => (hleast n hlt).not_ge hsq)

theorem MagNearest.root (ha : 0 ≤ a) (h : MagNearest √(a : ℝ) magn) {x : Word64} {u : ℚ} (hx : fpRat x = some u)
    (hu : 0 ≤ u) :
    let m := (u + magValue ℚ magn) / 2
    (u < magValue ℚ magn → m * m ≤ a) ∧ (magValue ℚ magn < u → a ≤ m * m) ∧
      (u ≠ magValue ℚ magn → m * m = a → magn % 2 = 0) := by
  intro m
  obtain ⟨n, -, rfl⟩ := exists_magValue_of_nonneg hx hu
  have hm : 0 ≤ m := div_nonneg (add_nonneg hu (magValue_nonneg _)) (by norm_num)
  have hcast : (magValue ℝ n + magValue ℝ magn) / 2 = (m : ℝ) := by
    simp only [m, ← magValue_cast (K := ℝ)]
    push_cast
    rfl
  have hmiddle := h.middle n
  rw [hcast] at hmiddle
  simp only [← magValue_cast (K := ℝ), Rat.cast_lt, Rat.cast_inj, ne_eq, le_sqrt_iff_mul_self ha hm,
    sqrt_le_iff_mul_self hm] at hmiddle
  obtain ⟨hbelow, habove, htie⟩ := hmiddle
  refine ⟨hbelow, habove, fun hne heq => htie hne (le_antisymm ?_ ?_)⟩
  · exact (le_sqrt_iff_mul_self ha hm).mpr heq.le
  · exact (sqrt_le_iff_mul_self hm).mpr heq.ge

/-- The rounded root, packed, is the root of a rational number rounded in that direction. -/
theorem MagRounded.rootRounded {mode : RoundMode} (ha : 0 ≤ a) (h : MagRounded mode false √(a : ℝ) magn) {z : Word64}
    (hz : fpRat z = some (magValue ℚ magn)) (heven : magn % 2 = 0 → z.toNat % 2 = 0) : RootRounded mode a z := by
  refine ⟨_, hz, magValue_nonneg _, ?_⟩
  cases mode with
  | nearestEven => 
    intro x u hx hu
    obtain ⟨hbelow, habove, htie⟩ := MagNearest.root ha h hx hu
    exact ⟨hbelow, habove, fun hne heq => heven (htie hne heq)⟩
  | down => exact MagBelow.root_le ha h
  | up => exact MagAbove.le_root h
  | zero => exact MagBelow.root_le ha h

end Root

/-! ### The operation -/

/-- A root is at most the number or 1, so it does not overflow. -/
theorem MagRounded.root_lt_fpInfBits {mode : RoundMode} {magn : Nat} {x : Word64} {a : ℚ} (hx : fpRat x = some a)
    (ha : 0 ≤ a) (h : MagRounded mode false √(a : ℝ) magn) : magn < fpInfBits := by
  obtain ⟨n, hn, hvalue⟩ := exists_magValue_of_nonneg hx ha
  have hone : magValue ℚ 0x3FF0000000000000 = 1 := by norm_num [magValue, magMant, magExp]
  rcases le_total a 1 with hle | hge
  · have hroot : √(a : ℝ) ≤ magValue ℝ 0x3FF0000000000000 := by
      rw [← magValue_cast, sqrt_le_iff_mul_self (magValue_nonneg _), hone]
      linarith
    exact (h.le_of_le_magValue hroot).trans_lt (by decide)
  · have hroot : √(a : ℝ) ≤ magValue ℝ n := by
      rw [← magValue_cast, ← hvalue, sqrt_le_iff_mul_self ha]
      nlinarith
    exact (h.le_of_le_magValue hroot).trans_lt hn

theorem eq_zeroPattern_of_fpRat {x : Word64} (h : fpRat x = some 0) : x = zeroPattern (signOf x) := by
  obtain ⟨-, hvalue⟩ := fpRat_eq_some_iff.mp h
  have hmag : magBits x = 0 := by
    rw [eq_comm, withSign_eq_zero_iff, ← magValue_zero] at hvalue
    exact magValue_strictMono.injective hvalue
  rw [← fpPattern_zero, ← hmag, fpPattern_signOf_magBits]

theorem fpDecode_zeroPattern (neg : Bool) : fpDecode (zeroPattern neg) = .fin neg 0 (-1074) := by
  rw [← fpPattern_zero, fpDecode_fpPattern neg (by decide)]
  rfl

/-- The root of a zero is that zero. -/
theorem fsqrt_zeroPattern (mode : RoundMode) (neg : Bool) : fsqrt mode (zeroPattern neg) = zeroPattern neg := by
  simp only [fsqrt, fpDecode_zeroPattern, if_true, fpPattern_zero]

theorem rootRounded_zeroPattern (mode : RoundMode) (neg : Bool) : RootRounded mode 0 (zeroPattern neg) := by
  refine MagRounded.rootRounded (magn := 0) le_rfl ?_ ?_ fun _ => ?_
  · rw [Rat.cast_zero, Real.sqrt_zero, ← magValue_zero (K := ℝ)]
    exact magRounded_self mode false 0
  · rw [← fpPattern_zero, fpRat_fpPattern neg (by decide), magValue_zero, withSign_zero]
  · cases neg <;> rfl

/-- The root of a positive finite number. -/
theorem fsqrt_of_positive (mode : RoundMode) {x : Word64} {a : ℚ} (hx : fpRat x = some a) (ha : 0 < a) :
    RootRounded mode a (fsqrt mode x) := by
  obtain ⟨m, g, hdecode, hvalue, -⟩ := exists_fpDecode_of_fpRat hx
  have hm : m ≠ 0 := by
    rw [Ne, ← finValue_eq_zero_iff (signOf x) m g, ← hvalue]
    exact ha.ne'
  have hsign : signOf x = false := by
    rw [← Bool.not_eq_true]
    intro hneg
    have hnonneg : (0 : ℚ) ≤ m * 2 ^ g := by positivity
    rw [hneg, finValue, withSign, if_pos rfl] at hvalue
    linarith
  rw [hsign] at hdecode hvalue
  obtain rfl : a = m * 2 ^ g := hvalue
  obtain ⟨hdescribes, hlong⟩ := describes_root hm g
  obtain ⟨magn, hrounded, hpack⟩ := hdescribes.exists_magRounded (fun _ => hlong) mode false
  have hcast : √((m : ℝ) * 2 ^ g) = √(((m : ℚ) * 2 ^ g : ℚ) : ℝ) := by push_cast; rfl
  rw [hcast] at hrounded
  have hfin := hrounded.root_lt_fpInfBits hx ha.le
  simp only [fsqrt, hdecode, if_neg hm, Bool.false_eq_true, if_false]
  rw [hpack, packMag, if_pos hfin]
  exact hrounded.rootRounded ha.le (fpRat_fpPattern false hfin) (fpPattern_even_iff false (hfin.trans (by decide))).mpr

/-- Settles O19: a zero is its own root, a positive number's root is rounded from a real number. -/
theorem rootRoundsCorrectly : Obligations.RootRoundsCorrectly := by
  intro mode x a hx ha
  rcases ha.eq_or_lt with rfl | hpos
  · rw [eq_zeroPattern_of_fpRat hx, fsqrt_zeroPattern]
    exact ⟨rootRounded_zeroPattern mode _, fun _ => rfl⟩
  · exact ⟨fsqrt_of_positive mode hx hpos, fun hzero => absurd hzero hpos.ne'⟩

end Sys2Proof.Machine
end

section
/-! SUPPORT. O20, the conversion of integers (R341) and the masks of group E (R342): a number of at most 53 bits is
itself the value of magnitude bits, which is nearest to itself. -/

namespace Sys2Proof.Machine

theorem MagNearest.eq_of_magValue {n magn : Nat} (h : MagNearest (magValue ℚ n) magn) : magn = n := by
  have hnear := (h n).1
  rw [sub_self, abs_zero] at hnear
  exact magValue_strictMono.injective (sub_eq_zero.mp (abs_nonpos_iff.mp hnear))

/-- A whole number of at most 53 bits is the value of magnitude bits. -/
theorem exists_magValue_eq_natCast {n : Nat} (hn : n < 2 ^ 53) : ∃ magn < fpInfBits, magValue ℚ magn = n := by
  by_cases hzero : n = 0
  · exact ⟨0, by decide, by simp [hzero]⟩
  · have hlen : bitLen n ≤ 53 := by
      by_contra! hlong
      have hlow : 2 ^ 53 ≤ 2 ^ (bitLen n - 1) := Nat.pow_le_pow_right (by decide) (by omega)
      exact absurd hn (Nat.not_lt.mpr (hlow.trans (two_pow_le_of_bitLen hzero)))
    have hpos := bitLen_pos hzero
    have hlow : 2 ^ 52 ≤ n * 2 ^ (53 - bitLen n) := by
      calc 2 ^ 52 = 2 ^ (bitLen n - 1) * 2 ^ (53 - bitLen n) := by rw [← Nat.pow_add]; congr 1; omega
        _ ≤ n * 2 ^ (53 - bitLen n) := Nat.mul_le_mul_right _ (two_pow_le_of_bitLen hzero)
    have hhigh : n * 2 ^ (53 - bitLen n) ≤ 2 ^ 53 := by
      calc n * 2 ^ (53 - bitLen n) ≤ 2 ^ bitLen n * 2 ^ (53 - bitLen n) :=
            Nat.mul_le_mul_right _ (lt_two_pow_bitLen n).le
        _ = 2 ^ 53 := by rw [← Nat.pow_add]; congr 1; omega
    have hexp : ((1021 + bitLen n : Nat) : Int) - 1074 = -((53 - bitLen n : Nat) : Int) := by omega
    refine ⟨(1021 + bitLen n) * 2 ^ 52 + n * 2 ^ (53 - bitLen n), by rw [fpInfBits]; omega, ?_⟩
    rw [magValue_add hhigh (.inr hlow), hexp, zpow_neg, zpow_natCast]
    push_cast
    exact mul_inv_cancel_right₀ (by positivity) _

/-- The conversion of an integer is exact (R341). -/
theorem fpRat_cvtI32 (v : Word32) : fpRat (cvtI32 v) = some (v.toInt : ℚ) := by
  have hrange : v.toInt.natAbs < 2 ^ 53 := by
    have hlow := BitVec.le_toInt v
    have hhigh := BitVec.toInt_lt (x := v)
    omega
  obtain ⟨n, hn, hvalue⟩ := exists_magValue_eq_natCast hrange
  obtain ⟨magn, hrounded, hpack⟩ :=
    (Describes.of_exact (K := ℚ) v.toInt.natAbs 0).exists_magRounded nofun .nearestEven (decide (v.toInt < 0))
  rw [zpow_zero, mul_one, ← hvalue] at hrounded
  obtain rfl := MagNearest.eq_of_magValue hrounded
  have hsign : decide (v.toInt < 0) = decide ((v.toInt : ℚ) < 0) := by rw [decide_eq_decide, Int.cast_lt_zero]
  rw [cvtI32, hpack, packMag, if_pos hn, fpRat_fpPattern _ hn, hvalue, Nat.cast_natAbs, Int.cast_abs, hsign,
    withSign_abs]

/-- Masking takes the top byte from the mask (R342). -/
theorem maskE_ushiftRight (x m : Word64) : maskE x m >>> 56 = m >>> 56 := by
  have hclear : (0x00FFFFFFFFFFFFFF : Word64) >>> 56 = 0 := by decide
  rw [maskE, BitVec.ushiftRight_or_distrib, BitVec.ushiftRight_and_distrib, hclear]
  simp

theorem signOf_of_isPositiveNormal {x : Word64} (h : isPositiveNormal x) : signOf x = false := by
  obtain ⟨-, hhigh⟩ := h
  rw [fpInfBits] at hhigh
  rw [signOf_eq_decide, decide_eq_false_iff_not]
  omega

/-- Settles O20: a 32-bit integer is itself a finite number; a mask's fixed bits give the range of its results. -/
theorem conversionAndMasking : Obligations.ConversionAndMasking := by
  refine ⟨fpRat_cvtI32, fun v => ⟨cvtPair_lo v, cvtPair_hi v⟩, fun x m => rfl, fun x m hmask => ?_⟩
  have hnormal := isPositiveNormal_maskE x hmask
  exact ⟨signOf_of_isPositiveNormal hnormal, maskE_ushiftRight x m, hnormal⟩

end Sys2Proof.Machine
end

section
/-! SUPPORT. The floating instructions, O12 to O17. What they have in common is said once: which words are legal, which
places have values, that one register is written, that every lane rounds alike, and what a floating load reads. -/

namespace Sys2Proof.Machine

open Sys2Proof.Config (RoundMode)

/-! ### Legal words (R127, R128) -/

theorem Instr.locLegal_of_file {i : Instr} (hkind : i.locKind = .none) (hloc : i.fields.loc = .file) :
    i.locLegal = true := by
  simp [Instr.locLegal, hkind, hloc]

theorem Instr.locLegal_of_window {i : Instr} (hkind : i.locKind = .floatLoad)
    (hloc : i.fields.loc = .l1 ∨ i.fields.loc = .l2) : i.locLegal = true := by
  simpa [Instr.locLegal, hkind] using hloc

/-- A word is legal whose `loc` is and whose fields that name one of four registers are below 4. -/
theorem Instr.legal_of_quads {i : Instr} (hloc : i.locLegal = true) (hdst : i.dstIsQuad = true → i.fields.dst.val < 4)
    (hsrc : i.srcIsQuad = true → i.fields.src.val < 4) : i.legal = true := by
  rw [Instr.legal, hloc, Instr.regsLegal]
  cases hd : i.dstIsQuad <;> cases hs : i.srcIsQuad <;> simp [hd, hs] at hdst hsrc ⊢ <;> simp [*]

theorem quad_eq {j : Fin 8} {d : Fin 4} (h : j.val = d.val) : quad j = d := by
  apply Fin.ext
  simp [quad, Fin.ofNat, h]

theorem quad_eq_of_add {j : Fin 8} {d : Fin 4} (h : j.val = 4 + d.val) : quad j = d := by
  apply Fin.ext
  simp [quad, Fin.ofNat, h]

/-! ### Places (R413) -/

section Places

variable {s : State}

theorem State.isWritten_of_mem_fPlaces (hs : s.seeded = true) (d : Fin 4) : ∀ l ∈ fPlaces d, s.isWritten l = true := by
  simp [fPlaces, State.isWritten, hs]

theorem State.isWritten_of_mem_ePlaces (hs : s.seeded = true) (d : Fin 4) : ∀ l ∈ ePlaces d, s.isWritten l = true := by
  simp [ePlaces, State.isWritten, hs]

theorem State.isWritten_of_mem_aPlaces (hd : s.decoded = true) (k : Fin 4) : ∀ l ∈ aPlaces k, s.isWritten l = true := by
  simp [aPlaces, State.isWritten, hd]

theorem State.isWritten_of_mem_fLoadPlaces {w : Fields} (hd : s.decoded = true) (hk : w.immIdx.val < s.imm.length) :
    ∀ l ∈ fLoadPlaces w, s.isWritten l = true := by
  simp [fLoadPlaces, State.isWritten_r hd, State.isWritten_imm hk]

end Places

/-! ### What executing a word gives -/

theorem OnlyFReg.setFReg (s : State) (d : Fin 4) (v : FReg) : OnlyFReg d s (s.setFReg d v) :=
  ⟨fun _ hj => s.fReg_setFReg_of_ne v hj, rfl, fun _ => rfl⟩

theorem OnlyEReg.setEReg (s : State) (d : Fin 4) (v : FReg) : OnlyEReg d s (s.setEReg d v) :=
  ⟨fun _ hj => s.eReg_setEReg_of_ne v hj, rfl, fun _ => rfl⟩

section Executes

variable {i : Instr} {s : State} {places : List Location} {d : Fin 4} {v : Half → Word64}

/-- A legal word whose effect is one write to group F completes once all its places have values. -/
theorem CompletesFReg.of_executing
    (hexec : exec i s = s.executing i places (.next (s.setFReg d (FReg.ofHalves v)))) (hl : i.legal = true)
    (hw : ∀ l ∈ places, s.isWritten l = true) : CompletesFReg i d v s := by
  refine ⟨_, hexec.trans (State.executing_of_written _ hl hw), fun h => ?_, OnlyFReg.setFReg s d _⟩
  rw [State.fReg_setFReg_same, FReg.half_ofHalves]

/-- A legal word whose effect is one write to group E completes once all its places have values. -/
theorem CompletesEReg.of_executing
    (hexec : exec i s = s.executing i places (.next (s.setEReg d (FReg.ofHalves v)))) (hl : i.legal = true)
    (hw : ∀ l ∈ places, s.isWritten l = true) : CompletesEReg i d v s := by
  refine ⟨_, hexec.trans (State.executing_of_written _ hl hw), fun h => ?_, OnlyEReg.setEReg s d _⟩
  rw [State.eReg_setEReg_same, FReg.half_ofHalves]

end Executes

/-! ### The direction of a half (R53, R258) -/

theorem UniformMode.modeOf {s : State} (h : UniformMode s) (half : Half) : s.modeOf half = roundModeOf s.fprc := by
  rw [State.modeOf]
  cases hlane : s.lanes[s.issue.laneOfHalf half]? with
  | none => rfl
  | some l => exact congrArg roundModeOf (h l (List.mem_of_getElem? hlane))

/-- A rounding operation half by half is in the direction of `fprc`. -/
theorem UniformMode.byHalf {s : State} (h : UniformMode s) (op : RoundMode → Word64 → Word64 → Word64) (x : FReg)
    (y : Half → Word64) :
    s.byHalf op x y = FReg.ofHalves fun half => op (roundModeOf s.fprc) (x.half half) (y half) := by
  simp only [State.byHalf, h.modeOf]

/-! ### The operand of a floating load (R343) -/

theorem State.fLoadOperand_eq (s : State) {w : Fields} (hloc : w.loc = .l1 ∨ w.loc = .l2) (h : Half) :
    let mask : Word64 := if w.loc = .l1 then 0x3FF8 else 0x3FFF8
    let m := s.spRead ((s.reg w.src + (s.immEntry w.immIdx.val).signExtend 64) &&& mask).toNat
    s.fLoadOperand w h = cvtI32 (if h = .lo then m.extractLsb' 0 32 else m.extractLsb' 32 32) := by
  intro mask m
  have hmask : windowMask w.loc = mask := by
    rcases hloc with h | h <;> simp [mask, h, windowMask]
  have hm : s.spRead (s.fLoadAddr w) = m := by rw [State.fLoadAddr, effAddr, hmask, sext32]
  rw [State.fLoadOperand, hm]
  cases h with
  | lo => exact cvtPair_lo m
  | hi => exact cvtPair_hi m

/-! ### The instructions -/

/-- Settles O12: `dst` names the register by its low two bits and the group by its third. -/
theorem swapHalves : Obligations.SwapHalves := by
  intro w s j hloc hs
  have hl : (Instr.fswapR w).legal = true := Instr.legal_of_quads (Instr.locLegal_of_file rfl hloc) nofun nofun
  refine ⟨fun hdst => ?_, fun hdst => ?_, .of_class rfl⟩
  · refine .of_executing ?_ hl (State.isWritten_of_mem_fPlaces hs j)
    rw [← quad_eq hdst]
    exact if_pos (by omega)
  · refine .of_executing ?_ hl (State.isWritten_of_mem_ePlaces hs j)
    rw [← quad_eq_of_add hdst]
    exact if_neg (by omega)

/-- Settles O13: both halves round alike where the lanes do; `x − x` is the exact zero difference of O18. -/
theorem floatAddSubRegister : Obligations.FloatAddSubRegister := by
  refine ⟨fun w s d k hloc hd hk hdec hs hmode => ?_, fun mode => ?_, fun mode x hx => ?_⟩
  · have hw : ∀ l ∈ fPlaces d ++ aPlaces k, s.isWritten l = true := List.forall_mem_append.mpr
      ⟨State.isWritten_of_mem_fPlaces hs d, State.isWritten_of_mem_aPlaces hdec k⟩
    have hdst : w.dst.val < 4 := hd ▸ d.isLt
    have hsrc : w.src.val < 4 := hk ▸ k.isLt
    obtain ⟨rfl, rfl⟩ : quad w.dst = d ∧ quad w.src = k := ⟨quad_eq hd, quad_eq hk⟩
    refine ⟨.of_executing ?_ (Instr.legal_of_quads (Instr.locLegal_of_file rfl hloc) (fun _ => hdst) fun _ => hsrc) hw,
      .of_executing ?_ (Instr.legal_of_quads (Instr.locLegal_of_file rfl hloc) (fun _ => hdst) fun _ => hsrc) hw,
      .of_class rfl, .of_class rfl⟩
    · rw [← hmode.byHalf fadd]
      rfl
    · rw [← hmode.byHalf fsub]
      rfl
  · cases mode <;> decide
  · obtain ⟨a, ha⟩ := Option.isSome_iff_exists.mp hx
    rw [(fsub_of_finite ha ha mode).2 (sub_self a), if_neg (Bool.eq_not_self _).mp, zeroPattern]
    simp only [decide_eq_true_eq]

/-- Settles O14: the operand is the converted pair, and the entry is the first of the places read. -/
theorem floatAddSubMemory : Obligations.FloatAddSubMemory := by
  refine ⟨fun w s d hloc hd => ?_, fun mode => ?_⟩
  · intro mask m operand
    have hdst : w.dst.val < 4 := hd ▸ d.isLt
    have hadd : (Instr.faddM w).legal = true :=
      Instr.legal_of_quads (Instr.locLegal_of_window rfl hloc) (fun _ => hdst) nofun
    have hsub : (Instr.fsubM w).legal = true :=
      Instr.legal_of_quads (Instr.locLegal_of_window rfl hloc) (fun _ => hdst) nofun
    refine ⟨fun hdec hs hmode hk => ?_, fun _ _ hk => ?_, .of_class rfl, .of_class rfl⟩
    · have hw : ∀ l ∈ fLoadPlaces w ++ fPlaces d, s.isWritten l = true := List.forall_mem_append.mpr
        ⟨State.isWritten_of_mem_fLoadPlaces hdec hk, State.isWritten_of_mem_fPlaces hs d⟩
      have hoperand : s.fLoadOperand w = operand := funext fun h => s.fLoadOperand_eq hloc h
      obtain rfl : quad w.dst = d := quad_eq hd
      rw [← hoperand]
      refine ⟨.of_executing ?_ hadd hw, .of_executing ?_ hsub hw⟩
      · rw [← hmode.byHalf fadd]
        rfl
      · rw [← hmode.byHalf fsub]
        rfl
    · exact ⟨.of_executing rfl hadd (State.firstUnwritten_imm_cons hk _),
        .of_executing rfl hsub (State.firstUnwritten_imm_cons hk _)⟩
  · cases mode <;> decide

theorem FReg.ext_half {x y : FReg} (h : ∀ half : Half, x.half half = y.half half) : x = y := by
  obtain ⟨xlo, xhi⟩ := x
  obtain ⟨ylo, yhi⟩ := y
  exact congrArg₂ FReg.mk (h .lo) (h .hi)

/-- Two changes of one register that leave its halves as they were leave the state as it was. -/
theorem OnlyFReg.eq_of_halves {d : Fin 4} {s t u : State} (hst : OnlyFReg d s t) (htu : OnlyFReg d t u)
    (hd : ∀ h : Half, (u.fReg d).half h = (s.fReg d).half h) : u = s := by
  obtain ⟨hothers, hframe, -⟩ := hst
  obtain ⟨hothers', hframe', -⟩ := htu
  have hf : u.f = s.f := Bank4.ext_get fun j => by
    by_cases hj : j = d
    · subst hj
      exact FReg.ext_half hd
    · exact (hothers' j hj).trans (hothers j hj)
  rw [hframe', hframe, hf]

/-- Settles O15: each execution writes the register's halves, and two XORs with the mask cancel. -/
theorem scaleAndNegate : Obligations.ScaleAndNegate := by
  intro w s d hloc hd hs
  have hl : (Instr.fscalR w).legal = true :=
    Instr.legal_of_quads (Instr.locLegal_of_file rfl hloc) (fun _ => hd ▸ d.isLt) nofun
  have hcompletes {s : State} (hs : s.seeded = true) :
      CompletesFReg (.fscalR w) d (fun h => (s.fReg d).half h ^^^ 0x80F0000000000000) s := by
    refine .of_executing ?_ hl (State.isWritten_of_mem_fPlaces hs d)
    rw [← quad_eq hd]
    rfl
  refine ⟨hcompletes hs, fun t u ht hu => ?_, .of_class rfl⟩
  obtain ⟨t', ht', hhalf, honly⟩ := hcompletes hs
  obtain rfl : t' = t := Host.Outcome.next.inj (ht'.symm.trans ht)
  have hseeded : t'.seeded = true := (congrArg State.seeded honly.2.1).trans hs
  obtain ⟨u', hu', hhalf', honly'⟩ := hcompletes hseeded
  obtain rfl : u' = u := Host.Outcome.next.inj (hu'.symm.trans hu)
  refine honly.eq_of_halves honly' fun h => ?_
  calc (u'.fReg d).half h = (s.fReg d).half h ^^^ 0x80F0000000000000 ^^^ 0x80F0000000000000 := 
        (hhalf' h).trans (congrArg (· ^^^ 0x80F0000000000000) (hhalf h))
    _ = (s.fReg d).half h := by rw [BitVec.xor_assoc, BitVec.xor_self, BitVec.xor_zero]

/-- A negative finite number has no root. -/
theorem isNaN_fsqrt_of_negative (mode : RoundMode) {x : Word64} {q : ℚ} (hx : fpRat x = some q) (hq : q < 0) :
    IsNaN (fsqrt mode x) := by
  obtain ⟨m, g, hdecode, hvalue, -⟩ := exists_fpDecode_of_fpRat hx
  have hm : m ≠ 0 := by
    rw [Ne, ← finValue_eq_zero_iff (signOf x) m g, ← hvalue]
    exact hq.ne
  have hsign : signOf x = true := by
    by_contra hpos
    have hnonneg : (0 : ℚ) ≤ m * 2 ^ g := by positivity
    rw [finValue, withSign, if_neg hpos] at hvalue
    linarith
  simp only [fsqrt, hdecode, if_neg hm, hsign, if_true]
  exact isNaN_nanResult ..

theorem isNaN_fsqrt (mode : RoundMode) {x : Word64}
    (h : (∃ q, fpRat x = some q ∧ q < 0) ∨ x = infPattern true ∨ IsNaN x) : IsNaN (fsqrt mode x) := by
  rcases h with ⟨q, hx, hq⟩ | rfl | hnan
  · exact isNaN_fsqrt_of_negative mode hx hq
  · simp only [fsqrt, fpDecode_infPattern, if_true]
    exact isNaN_nanResult ..
  · rw [IsNaN] at hnan
    simp only [fsqrt, hnan]
    exact isNaN_nanResult ..

/-- Settles O16: the product and the root half by half, and the roots that are not rounded. -/
theorem multiplyAndRoot : Obligations.MultiplyAndRoot := by
  refine ⟨fun w s d hloc hd hs hmode => ?_, fun mode x => ⟨isNaN_fsqrt mode, ?_⟩, fun mode => ?_⟩
  · have hdst : w.dst.val < 4 := hd ▸ d.isLt
    obtain rfl : quad w.dst = d := quad_eq hd
    have hw := State.isWritten_of_mem_ePlaces hs (quad w.dst)
    refine ⟨fun k hk hdec => ?_, ?_, .of_class rfl, .of_class rfl⟩
    · obtain rfl : quad w.src = k := quad_eq hk
      refine .of_executing ?_
        (Instr.legal_of_quads (Instr.locLegal_of_file rfl hloc) (fun _ => hdst) fun _ => hk ▸ (quad w.src).isLt)
        (List.forall_mem_append.mpr ⟨hw, State.isWritten_of_mem_aPlaces hdec (quad w.src)⟩)
      rw [← hmode.byHalf fmul]
      rfl
    · have hroots : (fun h => fsqrt (s.modeOf h) ((s.eReg (quad w.dst)).half h)) =
          fun h => fsqrt (roundModeOf s.fprc) ((s.eReg (quad w.dst)).half h) := by
        simp only [hmode.modeOf]
      rw [← hroots]
      exact .of_executing rfl (Instr.legal_of_quads (Instr.locLegal_of_file rfl hloc) (fun _ => hdst) nofun) hw
  · rintro rfl
    simp only [fsqrt, fpDecode_infPattern, Bool.false_eq_true, if_false, fpPattern_fpInfBits]
  · cases mode <;> decide +kernel

/-- A positive normal pattern has a positive value. -/
theorem exists_pos_of_isPositiveNormal {x : Word64} (h : isPositiveNormal x) : ∃ q, fpRat x = some q ∧ 0 < q := by
  obtain ⟨m, g, hm, hdecode⟩ := fpDecode_of_isPositiveNormal h
  refine ⟨_, by rw [fpRat, hdecode], ?_⟩
  rw [if_neg Bool.false_ne_true]
  positivity

/-- Settles O17: the divisor is the masked operand, positive and normal by O20's argument. -/
theorem divideByMemory : Obligations.DivideByMemory := by
  refine ⟨fun w s d hloc hd => ?_, fun mode => ?_⟩
  · intro mask m divisor
    have hl : (Instr.fdivM w).legal = true :=
      Instr.legal_of_quads (Instr.locLegal_of_window rfl hloc) (fun _ => hd ▸ d.isLt) nofun
    have hdivisor : (fun h => maskE (s.fLoadOperand w h) (s.eMask h)) = divisor := by
      funext h
      rw [s.fLoadOperand_eq hloc h]
      cases h <;> rfl
    rw [← hdivisor]
    refine ⟨fun hdec hs hmode hk => ?_, fun _ _ hk => .of_executing rfl hl (State.firstUnwritten_imm_cons hk _),
      fun h hmask => ?_, .of_class rfl⟩
    · obtain rfl : quad w.dst = d := quad_eq hd
      have hw : ∀ l ∈ fLoadPlaces w ++ ePlaces (quad w.dst) ++ [.eMask .lo, .eMask .hi], s.isWritten l = true := by
        refine List.forall_mem_append.mpr ⟨List.forall_mem_append.mpr
          ⟨State.isWritten_of_mem_fLoadPlaces hdec hk, State.isWritten_of_mem_ePlaces hs _⟩, ?_⟩
        simp [State.isWritten, hdec]
      refine .of_executing ?_ hl hw
      rw [← hmode.byHalf fdiv]
      rfl
    · have hnormal := isPositiveNormal_maskE (s.fLoadOperand w h) hmask
      exact ⟨hnormal.1, hnormal.2, exists_pos_of_isPositiveNormal hnormal⟩
  · cases mode <;> decide +kernel

end Sys2Proof.Machine
end

section
/-! SUPPORT. CBRANCH, CFROUND and ISTORE: O21 to O24. A request changes the lanes of its word and nothing else, the
branch test is a division of the sum, CBRANCH's checks come in R381's order, and ISTORE's address is that of a load
with `r[dst]` for its base. -/

namespace Sys2Proof.Machine

/-! ### Requests (R53, R380, R385) -/

theorem State.length_lanes_foldl_modifyLane (g : Lane → Lane) (lanes : List Nat) (s : State) :
    (lanes.foldl (fun t i => t.modifyLane i g) s).lanes.length = s.lanes.length :=
  List.foldlRecOn (motive := fun t : State => t.lanes.length = s.lanes.length) _ _ rfl fun t ht i _ => by
    rw [State.modifyLane_lanes, List.length_modify, ht]

/-- A request of the word being executed changes its own lanes and leaves the others. -/
theorem State.lane_of_request {g : Lane → Lane} (hg : ∀ l, g (g l) = g l) {s : State} {i : Nat} {l : Lane}
    (hl : s.lanes[i]? = some l) :
    (s.issue.lanes.foldl (fun t k => t.modifyLane k g) s).lanes[i]? =
      some (if i ∈ s.issue.lanes then g l else l) := by
  rw [State.getElem?_foldl_modifyLane hg, hl, Option.map_some]
  split <;> rfl

theorem State.length_lanes_requestJump (s : State) (target : BitVec 16) :
    (s.requestJump target).lanes.length = s.lanes.length :=
  State.length_lanes_foldl_modifyLane _ _ s

theorem State.lane_requestJump {s : State} {i : Nat} {l : Lane} (hl : s.lanes[i]? = some l) (target : BitVec 16) :
    (s.requestJump target).lanes[i]? =
      some (if i ∈ s.issue.lanes then { l with jreq := true, jtgt := target } else l) :=
  State.lane_of_request (g := fun l => { l with jreq := true, jtgt := target }) (fun _ => rfl) hl

theorem State.length_lanes_requestRounding (s : State) (mode : BitVec 2) :
    (s.requestRounding mode).lanes.length = s.lanes.length :=
  State.length_lanes_foldl_modifyLane _ _ s

theorem State.lane_requestRounding {s : State} {i : Nat} {l : Lane} (hl : s.lanes[i]? = some l) (mode : BitVec 2) :
    (s.requestRounding mode).lanes[i]? =
      some (if i ∈ s.issue.lanes then { l with rreq := true, rval := mode } else l) :=
  State.lane_of_request (g := fun l => { l with rreq := true, rval := mode }) (fun _ => rfl) hl

/-! ### CBRANCH's test and second entry (R380, R381) -/

/-- The mask of the tested bits lies inside the word, so the test is of one of the sum's fields. -/
theorem jumpTaken_iff (v : Word64) {b : Nat} (hb : b ≤ 56) : jumpTaken v b = true ↔ v.toNat / 2 ^ b % 2 ^ 8 = 0 := by
  have hpow : 2 ^ b ≤ 2 ^ 56 := Nat.pow_le_pow_right (by decide) hb
  have hmask : (jumpMask b).toNat = (2 ^ 8 - 1) * 2 ^ b := by
    rw [jumpMask, BitVec.toNat_ofNat, Config.jumpBits, Nat.mod_eq_of_lt]
    omega
  have hand : (v &&& jumpMask b).toNat = v.toNat / 2 ^ b % 2 ^ 8 * 2 ^ b := by
    rw [BitVec.toNat_and, hmask, and_mask_eq, Nat.pow_add, Nat.mod_mul_right_div_self]
  calc jumpTaken v b = true
      ↔ (v &&& jumpMask b).toNat = 0 := by
        rw [jumpTaken, beq_iff_eq]
        exact BitVec.toNat_inj.symm
    _ ↔ v.toNat / 2 ^ b % 2 ^ 8 = 0 := by rw [hand, Nat.mul_eq_zero, or_iff_left (Nat.two_pow_pos b).ne']

theorem branchEntryLegal_iff (second : Word32) :
    branchEntryLegal second = true ↔
      bitField second.toNat 21 11 = 0 ∧ 8 ≤ bitField second.toNat 16 5 ∧ bitField second.toNat 16 5 ≤ 23 := by
  simp only [branchEntryLegal, Bool.and_eq_true, beq_iff_eq, decide_eq_true_eq, and_assoc]
  rfl

/-! ### CBRANCH (R380, R381) -/

/-- CBRANCH's second entry (R380). -/
def State.branchEntry (s : State) (w : Fields) : Word32 := s.immEntry (w.immIdx.val + 1)

/-- The sum CBRANCH tests and writes (R380). -/
def State.branchSum (s : State) (w : Fields) : Word64 := s.reg w.dst + s.immSext w.immIdx.val

/-- The state after a CBRANCH whose checks pass: the sum written, and the jump requested where it is taken (R380). -/
def State.branched (s : State) (w : Fields) : State :=
  if jumpTaken (s.branchSum w) (branchBit (s.branchEntry w)) then
    (s.setReg w.dst (s.branchSum w)).requestJump (BitVec.ofNat 16 (branchTarget (s.branchEntry w)))
  else s.setReg w.dst (s.branchSum w)

/-- Taken or not, a branch writes its register and changes nothing else but the lanes. -/
theorem State.branched_eq (s : State) (w : Fields) :
    s.branched w = { s.setReg w.dst (s.branchSum w) with lanes := (s.branched w).lanes } := by
  unfold State.branched
  by_cases htaken : jumpTaken (s.branchSum w) (branchBit (s.branchEntry w)) = true
  · rw [if_pos htaken]
    exact State.requestJump_only_lanes _ _
  · rw [if_neg htaken]

theorem State.branched_r (s : State) (w : Fields) : (s.branched w).r = (s.setReg w.dst (s.branchSum w)).r := by
  rw [State.branched_eq]

theorem State.length_lanes_branched (s : State) (w : Fields) : (s.branched w).lanes.length = s.lanes.length := by
  unfold State.branched
  split
  · exact State.length_lanes_requestJump _ _
  · rfl

theorem State.lane_branched {s : State} (w : Fields) {i : Nat} {l : Lane} (hl : s.lanes[i]? = some l)
    (hbit : branchBit (s.branchEntry w) ≤ 23) :
    (s.branched w).lanes[i]? =
      some (if i ∈ s.issue.lanes ∧ (s.branchSum w).toNat / 2 ^ branchBit (s.branchEntry w) % 2 ^ 8 = 0 then
        { l with jreq := true, jtgt := BitVec.ofNat 16 (branchTarget (s.branchEntry w)) }
      else l) := by
  simp only [← jumpTaken_iff _ (hbit.trans (by decide))]
  unfold State.branched
  by_cases htaken : jumpTaken (s.branchSum w) (branchBit (s.branchEntry w)) = true
  · rw [if_pos htaken]
    simp only [htaken, and_true]
    exact State.lane_requestJump (s := s.setReg w.dst _) hl _
  · rw [if_neg htaken, if_neg fun ⟨_, h⟩ => htaken h]
    exact hl

section Branch

variable {w : Fields} {s : State} (hloc : w.loc = .file) (hd : s.decoded = true)
  (hk : w.immIdx.val + 1 < s.imm.length)
include hloc hd hk

/-- Both entries having values, CBRANCH answers what the checks of R381 leave. -/
theorem exec_cbranch_of_written :
    exec (.cbranch w) s =
      if branchEntryLegal (s.branchEntry w) then
        if branchTarget (s.branchEntry w) < s.progLen then .next (s.branched w)
        else s.faultWord (.badTarget s.pc s.issue.word (branchTarget (s.branchEntry w)))
      else s.faultWord (.badWord s.pc s.issue.word (encodeWord (.cbranch w))) := by
  refine State.executing_of_written _ (Instr.legal_of_file rfl rfl hloc) ?_
  simp [State.isWritten_r hd, State.isWritten_imm hk, State.isWritten_imm (Nat.lt_of_succ_lt hk)]

theorem exec_cbranch_badEntry (hentry : branchEntryLegal (s.branchEntry w) ≠ true) :
    RaisesBadWord (.cbranch w) s :=
  (exec_cbranch_of_written hloc hd hk).trans (if_neg hentry)

theorem exec_cbranch_badTarget (hentry : branchEntryLegal (s.branchEntry w) = true)
    (htarget : s.progLen ≤ branchTarget (s.branchEntry w)) :
    exec (.cbranch w) s =
      .next (s.raise (.badTarget s.pc s.issue.word (branchTarget (s.branchEntry w)))) :=
  (exec_cbranch_of_written hloc hd hk).trans ((if_pos hentry).trans (if_neg htarget.not_gt))

theorem exec_cbranch_branches (hentry : branchEntryLegal (s.branchEntry w) = true)
    (htarget : branchTarget (s.branchEntry w) < s.progLen) :
    exec (.cbranch w) s = .next (s.branched w) :=
  (exec_cbranch_of_written hloc hd hk).trans ((if_pos hentry).trans (if_pos htarget))

end Branch

/-- Settles O21: the register takes the sum on either side of the test, and the request is the lanes' only change. -/
theorem branchResult : Obligations.BranchResult := by
  intro w s hloc hd hk second b target sum hzero hlow hhigh htarget
  have hentry : branchEntryLegal second = true := (branchEntryLegal_iff second).mpr ⟨hzero, hlow, hhigh⟩
  refine ⟨s.branched w, exec_cbranch_branches hloc hd hk hentry htarget, ?_, fun j hj => ?_, ?_, fun a => ?_,
    s.length_lanes_branched w, fun i l hl => State.lane_branched w hl hhigh⟩
  · exact (congrArg (Bank8.get · w.dst) (s.branched_r w)).trans (s.reg_setReg_same _ _)
  · exact (congrArg (Bank8.get · j) (s.branched_r w)).trans (s.reg_setReg_of_ne _ hj)
  · rw [State.branched_eq]
    rfl
  · rw [State.branched_eq]
    rfl

/-- Settles O22: the entries are the first places read, and the checks on the second come before any effect. -/
theorem branchChecks : Obligations.BranchChecks := by
  intro w s hloc second b legalEntry
  have hl : (Instr.cbranch w).legal = true := Instr.legal_of_file rfl rfl hloc
  have hentry : branchEntryLegal second = true ↔ legalEntry := branchEntryLegal_iff second
  exact ⟨fun _ hk => .of_executing rfl hl (State.firstUnwritten_imm_cons hk _),
    fun _ hk => .of_executing rfl hl (State.firstUnwritten_second_imm hk _),
    fun hd hk hbad => exec_cbranch_badEntry hloc hd hk fun h => hbad (hentry.mp h),
    fun hd hk hgood htarget => exec_cbranch_badTarget hloc hd hk (hentry.mpr hgood) htarget⟩

/-! ### CFROUND (R385) -/

theorem exec_cfround {w : Fields} {s : State} (hloc : w.loc = .file) (hd : s.decoded = true)
    (hk : w.immIdx.val < s.imm.length) :
    exec (.cfround w) s = .next (s.requestRounding (s.roundingRequest w)) := by
  refine State.executing_of_written _ (Instr.legal_of_file rfl rfl hloc) ?_
  simp [State.isWritten_r hd, State.isWritten_imm hk]

/-- The vote for the mode in force leaves it, whether or not the resynchronisation faults. -/
theorem State.resync_fprc_of_vote {s : State} (n : Nat) (hvote : roundingVote s.lanes = some s.fprc) :
    (s.resync n).fprc = s.fprc := by
  rcases s.resync_cases n with ⟨-, h⟩ | ⟨-, h⟩
  · rw [h, s.raise_only_fault]
  · rw [h, hvote, Option.getD_some]

/-- Settles O23: the request is the only change, and a vote for the mode in force gives it again. -/
theorem roundingRequest : Obligations.RoundingRequest := by
  refine ⟨fun w s hloc => ?_, fun s n => State.resync_fprc_of_vote n, rfl, rfl, rfl, rfl⟩
  intro mode
  have hframe := s.requestRounding_only_lanes mode
  refine ⟨fun hd hk => ⟨s.requestRounding mode, exec_cfround hloc hd hk, hframe, fun a => ?_,
    s.length_lanes_requestRounding mode, fun i l hl => State.lane_requestRounding hl mode⟩,
    fun _ hk => .of_executing rfl (Instr.legal_of_file rfl rfl hloc) (State.firstUnwritten_imm_cons hk _),
    .of_class rfl⟩
  rw [hframe]

/-! ### ISTORE (R128, R208, R387) -/

theorem istore_legal_iff (w : Fields) : (Instr.istore w).legal = true ↔ w.loc ≠ .file := by
  have hregs : (Instr.istore w).regsLegal = true := Instr.regsLegal_of_not_isFloat rfl
  rw [Instr.legal, hregs, Bool.and_true]
  exact bne_iff_ne

theorem State.storeAddr_eq (s : State) {w : Fields} (hloc : w.loc ≠ .file) :
    s.storeAddr w =
      ((s.reg w.dst + (s.immEntry w.immIdx.val).signExtend 64) &&&
        (if w.loc = .l1 then 0x3FF8 else if w.loc = .l2 then 0x3FFF8 else 0x1FFFF8 : Word64)).toNat := by
  rw [State.storeAddr, effAddr, windowMask_eq hloc, sext32]

theorem exec_istore {w : Fields} {s : State} (hloc : w.loc ≠ .file) (hd : s.decoded = true)
    (hk : w.immIdx.val < s.imm.length) :
    exec (.istore w) s = .next (s.spWrite (s.storeAddr w) (s.reg w.src)) := by
  refine State.executing_of_written _ ((istore_legal_iff w).mpr hloc) ?_
  simp [State.isWritten_r hd, State.isWritten_imm hk]

/-- A store changes the eight bytes of its word alone. -/
theorem OnlyBytes.spWrite (s : State) (a : Nat) (v : Word64) : OnlyBytes a s (s.spWrite a v) :=
  ⟨fun _ hb => s.scratch.read_writeWord_outside a v hb, rfl⟩

theorem floatLoad_of_mem_floatingLoads {w : Fields} {i : Instr} (h : i ∈ floatingLoads w) : i.locKind = .floatLoad := by
  simp only [floatingLoads, List.mem_cons, List.not_mem_nil, or_false] at h
  rcases h with rfl | rfl | rfl <;> rfl

/-- R208's list of the words that read memory begins with the loads, and ends with ISTORE. -/
theorem mem_mem_readSet_of_load {w : Fields} {i : Instr} (h : i ∈ integerLoads w ∨ i ∈ floatingLoads w) :
    .mem ∈ readSet i := by
  rw [mem_mem_readSet_iff]
  rcases h with hint | hfloat
  · obtain ⟨hkind, -⟩ := intLoad_of_mem_integerLoads hint
    exact List.mem_append_left [19, 21, 24, 28] ((Instr.locKind_eq_intLoad_iff i).mp hkind)
  · have hop := (Instr.locKind_eq_floatLoad_iff i).mp (floatLoad_of_mem_floatingLoads hfloat)
    exact List.mem_append_right [1, 3, 5, 7, 9, 13] (List.mem_append_left [28] hop)

/-- The store writes the memory that the load reads, whichever comes first. -/
theorem conflicts_istore_load {v w : Fields} {i : Instr} (h : i ∈ integerLoads v ∨ i ∈ floatingLoads v) :
    conflicts (.istore w) i = true ∧ conflicts i (.istore w) = true := by
  have hreads : .mem ∈ readSet i := mem_mem_readSet_of_load h
  have hwrites : .mem ∈ writeSet (.istore w) := (mem_mem_writeSet_iff _).mpr rfl
  exact ⟨conflicts_iff.mpr ⟨.mem, .inl ⟨hwrites, .inl hreads⟩⟩, conflicts_iff.mpr ⟨.mem, .inr ⟨hreads, hwrites⟩⟩⟩

theorem lower_istore_loc {raw : RawInstr} (creg : Fin 8) (hcls : raw.cls = .istore) :
    (lower raw creg).fields.loc =
      if 14 ≤ raw.modCond.val then .l3 else if raw.modMem = 0 then .l2 else .l1 := by
  rw [lower, hcls]
  rfl

/-- Settles O24: the address under its window's mask, the bytes by the rules of memory, and the conflicts by R208. -/
theorem storeWord : Obligations.StoreWord := by
  refine ⟨fun w s => ?_, fun raw creg => lower_istore_loc creg⟩
  intro mask a
  refine ⟨fun hloc => ⟨s.storeAddr_eq hloc, effAddr_aligned _ _ _, effAddr_inside _ _ _, fun hd hk hwf => ?_,
    fun _ hk => .of_executing rfl ((istore_legal_iff w).mpr hloc) (State.firstUnwritten_imm_cons hk _)⟩,
    fun hfile => .of_executing rfl ?_, .of_class rfl, fun _ _ => conflicts_istore_load⟩
  · refine ⟨s.spWrite a (s.reg w.src), exec_istore hloc hd hk, ?_, fun k hk8 => ?_, OnlyBytes.spWrite s a _⟩
    · exact Memory.readWord_writeWord_same a _ hwf
    · exact (Memory.read_writeBytes_inside _ a _ 8 hk8 hwf).trans (word64Byte_eq_extractLsb' _ k)
  · rw [← Bool.not_eq_true, istore_legal_iff]
    exact not_not_intro hfile

end Sys2Proof.Machine
end

section
/-! SUPPORT. Faults and frames: O28, O33 and O27. A step that records a fault is one that raises it, because the one
fault behind a group's effects, that of the resynchronisation (R415), cannot arise between groups: every target
requested is inside the program (R381), and so is the group itself (R256). -/

namespace Sys2Proof.Machine

/-! ### The resynchronisation's fault (R259, R415) -/

/-- With every request and the group's own end inside the program the resynchronisation records nothing. -/
theorem State.resync_fault_of_jumpsBelow {u : State} {n : Nat} (hjumps : u.JumpsBelow u.progLen)
    (hnext : u.pc + n ≤ u.progLen) : (u.resync n).fault = u.fault := by
  rcases u.resync_cases n with ⟨hpast, -⟩ | ⟨-, hr⟩
  · exact absurd hpast (jumpVote_getD_le hjumps hnext).not_gt
  · rw [hr]

/-- Between groups, a group whose words all have their effects records nothing. -/
theorem LaneInv.resync_groupEffect_fault {s : State} {slots : List Slot} {results : List (Slot × State)}
    (h : LaneInv s) (hfetch : s.fetchGroup = .ok slots) (hrun : s.runSlots slots = .next (.ok results)) :
    ((results.foldl State.applyResult s).resync slots.length).fault = s.fault := by
  have hframe := InstructionFrame.foldl State.applyResult_frame results s
  have hprog : (results.foldl State.applyResult s).progLen = s.progLen := by rw [hframe]; rfl
  have hpc : (results.foldl State.applyResult s).pc = s.pc := by rw [hframe]
  have hjumps := (h.jumpsBelow s.progLen).groupEffect hrun
  rw [← hprog] at hjumps
  have hinside := State.fetchGroup_inside hfetch
  rw [← hprog, ← hpc] at hinside
  exact (State.resync_fault_of_jumpsBelow hjumps hinside).trans (s.groupEffect_fault results)

/-! ### The step -/

/-- Settles O28: of the effects of a step only the fault records one, a group's resynchronisation never. -/
theorem faultingStepChangesOnlyFault : Obligations.FaultingStepChangesOnlyFault := by
  intro s t h hstep hfault
  obtain ⟨-, hnone, -⟩ := step_cases hstep
  cases step_effect hstep with
  | fault _ eq => exact eq ▸ rfl
  | startHash _ _ _ eq => exact absurd (eq ▸ rfl) hfault
  | initScratchpad _ _ _ eq | startCompile _ _ _ eq | startBatch _ _ _ _ _ _ _ eq | decode eq | pass1 _ _ eq
  | pass2 _ _ _ _ _ eq | emit _ _ _ eq | seed _ _ eq | dispatchEnd _ _ _ eq => exact absurd (eq ▸ hnone) hfault
  | group _ _ _ _ fetched ran eq =>
    exact absurd (eq ▸ (h.resync_groupEffect_fault fetched ran).trans hnone) hfault
  | writeback _ _ eq =>
    rw [State.endRound_writtenBack] at eq
    exact absurd (eq ▸ hnone) hfault

/-! ### The frame of a dispatch step (R421) -/

theorem DispatchFrame.of_raise {s t : State} {rec : FaultRecord} (h : t = s.raise rec) : DispatchFrame s t := by
  rw [h, s.raise_only_fault rec]

/-- Dispatching keeps its frame whether or not it raises a fault. -/
theorem State.dispatchFrame_of_dispatchStep {s t : State} (h : s.dispatchStep = .next t) : DispatchFrame s t := by
  rcases State.dispatchStep_cases h with ⟨-, hg⟩ | ⟨-, rfl⟩ | ⟨-, ht⟩
  · rcases State.groupStep_cases hg with ⟨rec, -, ht⟩ | ⟨slots, rec, -, -, ht⟩ |
      ⟨slots, results, q, p, x, -, -, -, ht⟩ | ⟨slots, results, -, -, -, rfl⟩
    · exact .of_raise ht
    · exact .of_raise ht
    · exact .of_raise ht
    · exact s.groupEffect_frame results slots.length
  · rfl
  · exact .of_raise ht

/-- Settles O33: the frame that a group's words and its resynchronisation keep. -/
theorem dispatchKeepsControlState : Obligations.DispatchKeepsControlState :=
  fun _ _ h => State.dispatchFrame_of_dispatchStep h

/-! ### The record (R410) -/

theorem step_of_fault {s : State} (hok : s.params.ok = true) (hf : s.fault ≠ none) :
    step s = .fault .instanceStopped := by
  obtain ⟨rec, hrec⟩ := Option.ne_none_iff_exists'.mp hf
  simp only [step, hok, hrec, if_true]

/-- Settles O27: the two cases of raising, and the step's own check of the record. -/
theorem faultIsSticky : Obligations.FaultIsSticky := fun s rec =>
  ⟨s.raise_of_none rec, s.raise_of_some rec, step_of_fault⟩

end Sys2Proof.Machine
end

section
/-! SUPPORT. O25, the places without a value (R413). Every integer, control and store word reads an integer register,
its destination unless it is CFROUND; every floating word reads both halves of its destination in F or E. One such
place without a value is enough to stop the word, which names it or a place before it. -/

namespace Sys2Proof.Machine

/-- Executing `i` raises UNWRITTEN_READ for a place without a value. -/
def RaisesUnwritten (i : Instr) (s : State) : Prop :=
  ∃ l : Location, s.isWritten l = false ∧ exec i s = .next (s.raise (.unwrittenRead s.pc s.issue.word l))

/-- Where one of the places has no value, a first one has none. -/
theorem State.exists_firstUnwritten_of_mem {s : State} {places : List Location} {l : Location} (hl : l ∈ places)
    (hw : s.isWritten l = false) : ∃ first, s.firstUnwritten places = some first := by
  refine Option.ne_none_iff_exists'.mp fun hnone => ?_
  have hwritten := (s.firstUnwritten_eq_none places).mp hnone l hl
  simp [hw] at hwritten

/-- A legal word with a place without a value among those it reads raises UNWRITTEN_READ. -/
theorem RaisesUnwritten.of_executing {i : Instr} {s : State} {places : List Location} {l : Location}
    {effect : Host.Outcome State Fault Refusal} (hexec : exec i s = s.executing i places effect)
    (hlegal : i.legal = true) (hl : l ∈ places) (hw : s.isWritten l = false) : RaisesUnwritten i s := by
  obtain ⟨first, hfirst⟩ := State.exists_firstUnwritten_of_mem hl hw
  exact ⟨first, (State.firstUnwritten_eq_some hfirst).2,
    hexec.trans (State.executing_of_unwritten effect hlegal hfirst)⟩

/-! ### The place every word of a form reads (R301, R302, R344) -/

theorem dst_mem_operand2Places (w : Fields) : .r w.dst ∈ operand2Places w := by
  unfold operand2Places
  split <;> simp

theorem dst_mem_loadPlaces (w : Fields) : .r w.dst ∈ loadPlaces w := by
  unfold loadPlaces
  split <;> simp

theorem lo_mem_fPlaces (j : Fin 4) : .f j .lo ∈ fPlaces j := List.mem_cons_self

theorem lo_mem_ePlaces (j : Fin 4) : .e j .lo ∈ ePlaces j := List.mem_cons_self

/-! ### The words -/

/-- Before the decoder has run no integer register has a value, and every word but NOP and the floating ones reads
one. -/
theorem raisesUnwritten_of_not_decoded {i : Instr} {s : State} (hlegal : i.legal = true) (hnop : i.opcode ≠ 29)
    (hfloat : i.isFloat = false) (hd : s.decoded = false) : RaisesUnwritten i s := by
  have hr (j : Fin 8) : s.isWritten (.r j) = false := hd
  cases i with
  | nop => exact absurd rfl hnop
  | fswapR | faddR | faddM | fsubR | fsubM | fscalR | fmulR | fdivM | fsqrtR => cases hfloat
  | iaddRs w => exact .of_executing rfl hlegal (by split <;> simp) (hr w.dst)
  | isubR w | imulR w | ixorR w | irorR w | irolR w =>
    exact .of_executing rfl hlegal (dst_mem_operand2Places w) (hr w.dst)
  | iaddM w | isubM w | imulM w | imulhM w | ismulhM w | ixorM w =>
    exact .of_executing rfl hlegal (dst_mem_loadPlaces w) (hr w.dst)
  | imulhR w | ismulhR w | imulRcp w | inegR w | iswapR w | cbranch w | istore w =>
    exact .of_executing rfl hlegal (by simp) (hr w.dst)
  | cfround w => exact .of_executing rfl hlegal (by simp) (hr w.src)

/-- Before a batch's first seeding groups F and E have no value, and every floating word reads its destination. -/
theorem raisesUnwritten_of_not_seeded {i : Instr} {s : State} (hlegal : i.legal = true) (hfloat : i.isFloat = true)
    (hs : s.seeded = false) : RaisesUnwritten i s := by
  have hf (j : Fin 4) : s.isWritten (.f j .lo) = false := hs
  have he (j : Fin 4) : s.isWritten (.e j .lo) = false := hs
  cases i with
  | fswapR w =>
    by_cases hdst : w.dst.val < 4
    · exact .of_executing (if_pos hdst) hlegal (lo_mem_fPlaces _) (hf (quad w.dst))
    · exact .of_executing (if_neg hdst) hlegal (lo_mem_ePlaces _) (he (quad w.dst))
  | faddR w | fsubR w =>
    exact .of_executing rfl hlegal (List.mem_append_left _ (lo_mem_fPlaces _)) (hf (quad w.dst))
  | faddM w | fsubM w =>
    exact .of_executing rfl hlegal (List.mem_append_right _ (lo_mem_fPlaces _)) (hf (quad w.dst))
  | fscalR w => exact .of_executing rfl hlegal (lo_mem_fPlaces _) (hf (quad w.dst))
  | fmulR w => exact .of_executing rfl hlegal (List.mem_append_left _ (lo_mem_ePlaces _)) (he (quad w.dst))
  | fdivM w =>
    exact .of_executing rfl hlegal (List.mem_append_left _ (List.mem_append_right _ (lo_mem_ePlaces _)))
      (he (quad w.dst))
  | fsqrtR w => exact .of_executing rfl hlegal (lo_mem_ePlaces _) (he (quad w.dst))
  | _ => cases hfloat

/-- Settles O25: by the group of registers that the word reads whatever its fields. -/
theorem unwrittenReadsFault : Obligations.UnwrittenReadsFault := by
  intro i s hlegal hnop hunwritten
  split at hunwritten
  · next hfloat => exact raisesUnwritten_of_not_seeded hlegal hfloat hunwritten
  · next hfloat => exact raisesUnwritten_of_not_decoded hlegal hnop (eq_false_of_ne_true hfloat) hunwritten

end Sys2Proof.Machine
end

section
/-! SUPPORT. O3, the values at reset. A reset state is the start of a hash with nothing queued: no place has a value,
every lane is fresh (R53), and the host is to move with nothing to take (log 7). -/

namespace Sys2Proof.Machine

/-- Between groups no lane requests anything (R53). -/
theorem LaneInv.noRequest {s : State} (h : LaneInv s) :
    ∀ l ∈ s.lanes, l.jreq = false ∧ l.jtgt = 0 ∧ l.rreq = false ∧ l.rval = 0 := by
  intro l hl
  obtain rfl : l = Lane.fresh s.pc s.fprc := List.eq_of_mem_replicate (h.lanes ▸ hl)
  exact ⟨rfl, rfl, rfl, rfl⟩

/-- No place of R413 has a value at reset (R451). -/
theorem reset_isWritten (l : Location) : State.reset.isWritten l = false :=
  reset_eq_startHash ▸ State.reset.isWritten_startHash [] [] l

/-- The instance waits for its host at reset (log 7). -/
theorem step_reset : step State.reset = .fault .awaitingHost := by
  have hok : State.reset.params.ok = true := by decide
  exact step_of_empty_hostQueue hok rfl rfl rfl

/-- Settles O3: the lanes by their invariant, the places and the wait by the lemmas above, the rest by the values that
reset writes. -/
theorem resetStateValues : Obligations.ResetStateValues := by
  have hfprc : State.reset.fprc = 0 := rfl
  have hfault : State.reset.fault = none := rfl
  have hprogLen : State.reset.progLen = 0 := rfl
  exact ⟨hfprc, hfault, reset_laneInv.noRequest, reset_isWritten, hprogLen, step_reset⟩

end Sys2Proof.Machine
end
